-- ==== Sys2Proof/Word.lean ====
section
/-! DEFINITION. The value types of the block: bytes, 16-bit words, nibbles, 12-bit addresses, register indices and
wall-clock time (spec/00_scope.md R7, R10). -/

namespace Sys2Proof

/-- A byte, 0..255 (R10). -/
abbrev Byte := BitVec 8

/-- A 16-bit word: an instruction word, I, pc or a return address (R7, R10). -/
abbrev Word := BitVec 16

/-- A 12-bit address immediate NNN (spec/30_encoding.md R66). -/
abbrev Addr := BitVec 12

/-- A nibble used as a number 0..15: the row count N of `DXYN`, a key code (R10, R12). -/
abbrev Nibble := Fin 16

/-- The index of a general register: always a nibble, so always in range (spec/10_state.md R24). -/
abbrev Reg := Fin 16

/-- A wall-clock time in seconds. The spec's `Time` has no type of its own (spec/10_state.md R21, R32); exact rational
seconds are the model's, DESIGN CHOICE, log 8. -/
abbrev Time := Rat

end Sys2Proof
end

