-- ==== Sys2Proof/Config.lean ====
section
/-! DEFINITION. What is fixed at construction (spec/00_scope.md R8: quirk, font, stackDepth) and the free values the spec
leaves open in every step (ticks, rand: spec/40_execution_cycle.md R85). -/

namespace Sys2Proof

/-- The font: 16 glyphs in digit order, 5 bytes each (spec/20_memory.md R48). -/
abbrev Font := Vector (Vector Byte 5) 16

/-- The configuration fixed at construction; no step and no later transaction writes it (spec/10_state.md R34, R45). -/
structure Config where
  /-- `false` is the legacy bundle, `true` the SUPER-CHIP/CHIP-48 bundle (R17, D2). -/
  quirk : Bool
  /-- The bytes at addresses 0..79 after reset (R8, R9, D19). -/
  font : Font
  /-- `none` is the source's unbounded stack; `some d` a finite realisation (R8, D20). -/
  stackDepth : Option Nat
deriving DecidableEq, Repr

/-- The conventional CHIP-8 font, digit by digit, as spec/00_scope.md R9 lists it. PRESUMED (the spec marks it "from general
knowledge, not in source"), log 3. -/
def Config.defaultFont : Font :=
  #v[#v[0xF0, 0x90, 0x90, 0x90, 0xF0],
    #v[0x20, 0x60, 0x20, 0x20, 0x70],
    #v[0xF0, 0x10, 0xF0, 0x80, 0xF0],
    #v[0xF0, 0x10, 0xF0, 0x10, 0xF0],
    #v[0x90, 0x90, 0xF0, 0x10, 0x10],
    #v[0xF0, 0x80, 0xF0, 0x10, 0xF0],
    #v[0xF0, 0x80, 0xF0, 0x90, 0xF0],
    #v[0xF0, 0x10, 0x20, 0x40, 0x40],
    #v[0xF0, 0x90, 0xF0, 0x90, 0xF0],
    #v[0xF0, 0x90, 0xF0, 0x10, 0xF0],
    #v[0xF0, 0x90, 0xF0, 0x90, 0x90],
    #v[0xE0, 0x90, 0xE0, 0x90, 0xE0],
    #v[0xF0, 0x80, 0x80, 0x80, 0xF0],
    #v[0xE0, 0x90, 0x90, 0x90, 0xE0],
    #v[0xF0, 0x80, 0xF0, 0x80, 0xF0],
    #v[0xF0, 0x80, 0xF0, 0x80, 0x80]]

/-- The configuration `State.reset` is constructed with. The spec gives `quirk` no default (D2): DESIGN CHOICE `false`, log 2;
the font is R9's default, log 3; `stackDepth` is the spec's default `none`, log 4. -/
def Config.default : Config := { quirk := false, font := Config.defaultFont, stackDepth := none }

/-- FREE VALUE, log 1: the 60 Hz units the tick of the n-th completed step subtracts, where the host has supplied none
(spec/40_execution_cycle.md R85, spec/45_input_timers.md R141: any natural number). Nothing is known of it. -/
opaque Config.freeTicks : Nat → Nat

/-- FREE VALUE, log 1: the random byte of the n-th completed step, where the host has supplied none
(spec/43_alu.md R126, D12: any byte). Nothing is known of it. -/
opaque Config.freeRand : Nat → Byte

end Sys2Proof
end

