-- ==== Sys2Proof/Syntax.lean ====
section
/-! DEFINITION. The instructions: one constructor for each row of spec/opcode_table.json (spec/30_encoding.md R69, R73), and
the opcode table's match and mask words (R70). -/

namespace Sys2Proof

/-- The 34 instructions of R69 and the unmatched no-op of R73. Operand letters as in R66. -/
inductive Instr where
  /-- `00E0`: clear the screen (R99). -/
  | cls
  /-- `00EE`: return from subroutine (R103). -/
  | ret
  /-- `1NNN`: jump (R104). -/
  | jpNnn (nnn : Addr)
  /-- `2NNN`: call subroutine (R105). -/
  | callNnn (nnn : Addr)
  /-- `3XNN`: skip if VX = NN (R108). -/
  | seVxNn (x : Reg) (nn : Byte)
  /-- `4XNN`: skip if VX ≠ NN (R109). -/
  | sneVxNn (x : Reg) (nn : Byte)
  /-- `5XY0`: skip if VX = VY (R110). -/
  | seVxVy (x y : Reg)
  /-- `6XNN`: VX := NN (R115). -/
  | ldVxNn (x : Reg) (nn : Byte)
  /-- `7XNN`: VX := sat8(VX + NN), no flag (R116). -/
  | addVxNn (x : Reg) (nn : Byte)
  /-- `8XY0`: VX := VY (R117). -/
  | ldVxVy (x y : Reg)
  /-- `8XY1`: VX := VX OR VY (R118). -/
  | orVxVy (x y : Reg)
  /-- `8XY2`: VX := VX AND VY (R119). -/
  | andVxVy (x y : Reg)
  /-- `8XY3`: VX := VX XOR VY (R120). -/
  | xorVxVy (x y : Reg)
  /-- `8XY4`: saturating add with flag (R121). -/
  | addVxVy (x y : Reg)
  /-- `8XY5`: clamped VX - VY with flag (R122). -/
  | subVxVy (x y : Reg)
  /-- `8XY6`: shift right, quirk-dependent source (R123). -/
  | shrVxVy (x y : Reg)
  /-- `8XY7`: clamped VY - VX with flag (R124). -/
  | subnVxVy (x y : Reg)
  /-- `8XYE`: shift left, quirk-dependent source (R125). -/
  | shlVxVy (x y : Reg)
  /-- `9XY0`: skip if VX ≠ VY (R111). -/
  | sneVxVy (x y : Reg)
  /-- `ANNN`: I := NNN (R127). -/
  | ldINnn (nnn : Addr)
  /-- `BNNN`: jump to NNN + V0 (quirk: VX with X = NNN[11:8]) (R106). -/
  | jpV0Nnn (nnn : Addr)
  /-- `CXNN`: VX := rand AND NN (R126). -/
  | rndVxNn (x : Reg) (nn : Byte)
  /-- `DXYN`: draw an N-row sprite at (VX, VY) (R100). -/
  | drwVxVyN (x y : Reg) (n : Nibble)
  /-- `EX9E`: skip if the pending key equals VX (R134). -/
  | skpVx (x : Reg)
  /-- `EXA1`: skip if the pending key differs from VX (R135). -/
  | sknpVx (x : Reg)
  /-- `FX07`: VX := DT (R137). -/
  | ldVxDt (x : Reg)
  /-- `FX0A`: wait for a key (R136). -/
  | ldVxK (x : Reg)
  /-- `FX15`: DT := VX (R138). -/
  | ldDtVx (x : Reg)
  /-- `FX18`: ST := VX (R139). -/
  | ldStVx (x : Reg)
  /-- `FX1E`: I := sat16(I + VX) (R128). -/
  | addIVx (x : Reg)
  /-- `FX29`: I := glyph address of VX (R129). -/
  | ldFVx (x : Reg)
  /-- `FX33`: store the decimal digits of VX (R130). -/
  | ldBVx (x : Reg)
  /-- `FX55`: store V0..VX at I (R131). -/
  | ldMemVx (x : Reg)
  /-- `FX65`: load V0..VX from I (R132). -/
  | ldVxMem (x : Reg)
  /-- `unmatched`: every other word: no-op (R73). -/
  | unmatched (w : Word)
deriving DecidableEq, Repr

/-- The mnemonic of the instruction's row in spec/opcode_table.json. -/
def Instr.mnemonic : Instr → String
  | .cls => "CLS"
  | .ret => "RET"
  | .jpNnn _ => "JP_NNN"
  | .callNnn _ => "CALL_NNN"
  | .seVxNn _ _ => "SE_VX__NN"
  | .sneVxNn _ _ => "SNE_VX__NN"
  | .seVxVy _ _ => "SE_VX__VY"
  | .ldVxNn _ _ => "LD_VX__NN"
  | .addVxNn _ _ => "ADD_VX__NN"
  | .ldVxVy _ _ => "LD_VX__VY"
  | .orVxVy _ _ => "OR_VX__VY"
  | .andVxVy _ _ => "AND_VX__VY"
  | .xorVxVy _ _ => "XOR_VX__VY"
  | .addVxVy _ _ => "ADD_VX__VY"
  | .subVxVy _ _ => "SUB_VX__VY"
  | .shrVxVy _ _ => "SHR_VX__VY"
  | .subnVxVy _ _ => "SUBN_VX__VY"
  | .shlVxVy _ _ => "SHL_VX__VY"
  | .sneVxVy _ _ => "SNE_VX__VY"
  | .ldINnn _ => "LD_I__NNN"
  | .jpV0Nnn _ => "JP_V0__NNN"
  | .rndVxNn _ _ => "RND_VX__NN"
  | .drwVxVyN _ _ _ => "DRW_VX__VY__N"
  | .skpVx _ => "SKP_VX"
  | .sknpVx _ => "SKNP_VX"
  | .ldVxDt _ => "LD_VX__DT"
  | .ldVxK _ => "LD_VX__K"
  | .ldDtVx _ => "LD_DT__VX"
  | .ldStVx _ => "LD_ST__VX"
  | .addIVx _ => "ADD_I__VX"
  | .ldFVx _ => "LD_F__VX"
  | .ldBVx _ => "LD_B__VX"
  | .ldMemVx _ => "LD__I___VX"
  | .ldVxMem _ => "LD_VX___I"
  | .unmatched _ => ".word"

/-- One row of the opcode table: a word belongs to it exactly when its bits under `mask` are `value` (R70). -/
structure OpcodeRow where
  mnemonic : String
  value : Word
  mask : Word
deriving DecidableEq, Repr

/-- R70: "a word w matches a row of `opcode_table.json` exactly when `(w AND mask) = match`". -/
abbrev OpcodeRow.Matches (r : OpcodeRow) (w : Word) : Prop := w &&& r.mask = r.value

/-- The 34 rows of spec/opcode_table.json that name a pattern (the default row is the absence of all of them). -/
def opcodeTable : List OpcodeRow :=
  [⟨"CLS", 0x00E0, 0xFFFF⟩,
   ⟨"RET", 0x00EE, 0xFFFF⟩,
   ⟨"JP_NNN", 0x1000, 0xF000⟩,
   ⟨"CALL_NNN", 0x2000, 0xF000⟩,
   ⟨"SE_VX__NN", 0x3000, 0xF000⟩,
   ⟨"SNE_VX__NN", 0x4000, 0xF000⟩,
   ⟨"SE_VX__VY", 0x5000, 0xF00F⟩,
   ⟨"LD_VX__NN", 0x6000, 0xF000⟩,
   ⟨"ADD_VX__NN", 0x7000, 0xF000⟩] ++
  [⟨"LD_VX__VY", 0x8000, 0xF00F⟩,
   ⟨"OR_VX__VY", 0x8001, 0xF00F⟩,
   ⟨"AND_VX__VY", 0x8002, 0xF00F⟩,
   ⟨"XOR_VX__VY", 0x8003, 0xF00F⟩,
   ⟨"ADD_VX__VY", 0x8004, 0xF00F⟩,
   ⟨"SUB_VX__VY", 0x8005, 0xF00F⟩,
   ⟨"SHR_VX__VY", 0x8006, 0xF00F⟩,
   ⟨"SUBN_VX__VY", 0x8007, 0xF00F⟩,
   ⟨"SHL_VX__VY", 0x800E, 0xF00F⟩] ++
  [⟨"SNE_VX__VY", 0x9000, 0xF00F⟩,
   ⟨"LD_I__NNN", 0xA000, 0xF000⟩,
   ⟨"JP_V0__NNN", 0xB000, 0xF000⟩,
   ⟨"RND_VX__NN", 0xC000, 0xF000⟩,
   ⟨"DRW_VX__VY__N", 0xD000, 0xF000⟩,
   ⟨"SKP_VX", 0xE09E, 0xF0FF⟩,
   ⟨"SKNP_VX", 0xE0A1, 0xF0FF⟩,
   ⟨"LD_VX__DT", 0xF007, 0xF0FF⟩,
   ⟨"LD_VX__K", 0xF00A, 0xF0FF⟩] ++
  [⟨"LD_DT__VX", 0xF015, 0xF0FF⟩,
   ⟨"LD_ST__VX", 0xF018, 0xF0FF⟩,
   ⟨"ADD_I__VX", 0xF01E, 0xF0FF⟩,
   ⟨"LD_F__VX", 0xF029, 0xF0FF⟩,
   ⟨"LD_B__VX", 0xF033, 0xF0FF⟩,
   ⟨"LD__I___VX", 0xF055, 0xF0FF⟩,
   ⟨"LD_VX___I", 0xF065, 0xF0FF⟩]

end Sys2Proof
end

