-- ==== Sys2Proof/WellFormed.lean ====
section
/-! DEFINITION. Which terms of `Instr` stand for a word. Register indices, counts and immediates carry their ranges in
their types (spec/10_state.md R24), so the one thing left to check is that an unmatched word really matches no row of the
opcode table (spec/30_encoding.md R70, R73). -/

namespace Sys2Proof

/-- R73: "any Word16 that matches no row of rule R69". -/
abbrev MatchesNoRow (w : Word) : Prop := ∀ r ∈ opcodeTable, ¬ r.Matches w

/-- An instruction is well-formed when some word decodes to it. -/
def Instr.wellFormed : Instr → Bool
  | .cls => true
  | .ret => true
  | .jpNnn _ => true
  | .callNnn _ => true
  | .seVxNn _ _ => true
  | .sneVxNn _ _ => true
  | .seVxVy _ _ => true
  | .ldVxNn _ _ => true
  | .addVxNn _ _ => true
  | .ldVxVy _ _ => true
  | .orVxVy _ _ => true
  | .andVxVy _ _ => true
  | .xorVxVy _ _ => true
  | .addVxVy _ _ => true
  | .subVxVy _ _ => true
  | .shrVxVy _ _ => true
  | .subnVxVy _ _ => true
  | .shlVxVy _ _ => true
  | .sneVxVy _ _ => true
  | .ldINnn _ => true
  | .jpV0Nnn _ => true
  | .rndVxNn _ _ => true
  | .drwVxVyN _ _ _ => true
  | .skpVx _ => true
  | .sknpVx _ => true
  | .ldVxDt _ => true
  | .ldVxK _ => true
  | .ldDtVx _ => true
  | .ldStVx _ => true
  | .addIVx _ => true
  | .ldFVx _ => true
  | .ldBVx _ => true
  | .ldMemVx _ => true
  | .ldVxMem _ => true
  | .unmatched w => decide (MatchesNoRow w)

end Sys2Proof
end

