-- ==== Sys2Proof/Decode.lean ====
section
/-! DEFINITION. The decoder (spec/30_encoding.md R64–R75): total on words, rejecting by name a byte sequence that holds no
whole word; and the encoder, written from the same patterns. -/

namespace Sys2Proof

/-- `w[hi:lo] = (w >> lo) mod 2^(hi-lo+1)` (spec/00_scope.md R11). -/
def bitField (w : Word) (hi lo : Nat) : Nat := w.toNat / 2 ^ lo % 2 ^ (hi - lo + 1)

/-- n0 = w[15:12] (spec/30_encoding.md R64, R65). -/
def nibble0 (w : Word) : Nat := bitField w 15 12
/-- n1 = w[11:8]. -/
def nibble1 (w : Word) : Nat := bitField w 11 8
/-- n2 = w[7:4]. -/
def nibble2 (w : Word) : Nat := bitField w 7 4
/-- n3 = w[3:0]. -/
def nibble3 (w : Word) : Nat := bitField w 3 0

/-- X = n1 (R66). -/
def fieldX (w : Word) : Reg := Fin.ofNat 16 (nibble1 w)
/-- Y = n2 (R66). -/
def fieldY (w : Word) : Reg := Fin.ofNat 16 (nibble2 w)
/-- N = n3 (R66). -/
def fieldN (w : Word) : Nibble := Fin.ofNat 16 (nibble3 w)
/-- NN = w[7:0] (R66). -/
def fieldNN (w : Word) : Byte := BitVec.ofNat 8 (bitField w 7 0)
/-- NNN = w[11:0] (R66). -/
def fieldNNN (w : Word) : Addr := BitVec.ofNat 12 (bitField w 11 0)

/-- The map of R69: first nibble, then the selectors; every other word is unmatched (R70, R73). -/
def decodeWord (w : Word) : Instr :=
  match nibble0 w with
  | 0x0 => if w = 0x00E0#16 then .cls else if w = 0x00EE#16 then .ret else .unmatched w
  | 0x1 => .jpNnn (fieldNNN w)
  | 0x2 => .callNnn (fieldNNN w)
  | 0x3 => .seVxNn (fieldX w) (fieldNN w)
  | 0x4 => .sneVxNn (fieldX w) (fieldNN w)
  | 0x5 => if nibble3 w = 0 then .seVxVy (fieldX w) (fieldY w) else .unmatched w
  | 0x6 => .ldVxNn (fieldX w) (fieldNN w)
  | 0x7 => .addVxNn (fieldX w) (fieldNN w)
  | 0x8 =>
    match nibble3 w with
    | 0x0 => .ldVxVy (fieldX w) (fieldY w)
    | 0x1 => .orVxVy (fieldX w) (fieldY w)
    | 0x2 => .andVxVy (fieldX w) (fieldY w)
    | 0x3 => .xorVxVy (fieldX w) (fieldY w)
    | 0x4 => .addVxVy (fieldX w) (fieldY w)
    | 0x5 => .subVxVy (fieldX w) (fieldY w)
    | 0x6 => .shrVxVy (fieldX w) (fieldY w)
    | 0x7 => .subnVxVy (fieldX w) (fieldY w)
    | 0xE => .shlVxVy (fieldX w) (fieldY w)
    | _ => .unmatched w
  | 0x9 => if nibble3 w = 0 then .sneVxVy (fieldX w) (fieldY w) else .unmatched w
  | 0xA => .ldINnn (fieldNNN w)
  | 0xB => .jpV0Nnn (fieldNNN w)
  | 0xC => .rndVxNn (fieldX w) (fieldNN w)
  | 0xD => .drwVxVyN (fieldX w) (fieldY w) (fieldN w)
  | 0xE =>
    match bitField w 7 0 with
    | 0x9E => .skpVx (fieldX w)
    | 0xA1 => .sknpVx (fieldX w)
    | _ => .unmatched w
  | _ =>
    match bitField w 7 0 with
    | 0x07 => .ldVxDt (fieldX w)
    | 0x0A => .ldVxK (fieldX w)
    | 0x15 => .ldDtVx (fieldX w)
    | 0x18 => .ldStVx (fieldX w)
    | 0x1E => .addIVx (fieldX w)
    | 0x29 => .ldFVx (fieldX w)
    | 0x33 => .ldBVx (fieldX w)
    | 0x55 => .ldMemVx (fieldX w)
    | 0x65 => .ldVxMem (fieldX w)
    | _ => .unmatched w

/-- Instruction words are big-endian: `w = mem[pc] * 256 + mem[pc + 1]` (spec/20_memory.md R51). -/
def wordOfBytes (hi lo : Byte) : Word := BitVec.ofNat 16 (hi.toNat * 256 + lo.toNat)

/-- The byte stored at the lower address: nibbles 0 and 1 (R51, R64). -/
def highByte (w : Word) : Byte := BitVec.ofNat 8 (bitField w 15 8)

/-- The byte stored at the higher address: nibbles 2 and 3 (R51, R64). -/
def lowByte (w : Word) : Byte := BitVec.ofNat 8 (bitField w 7 0)

/-- Why a byte sequence does not decode. -/
inductive DecodeReject where
  /-- Fewer than two bytes are left: the "truncated instruction" of spec/20_memory.md R52. -/
  | truncated
deriving DecidableEq, Repr

/-- The decoder on bytes as they lie in memory: the instruction of the first two and the bytes after them. Every word has a
meaning (R74), so the one rejection is the truncated word. -/
def decodeBytes : List Byte → Except DecodeReject (Instr × List Byte)
  | hi :: lo :: rest => .ok (decodeWord (wordOfBytes hi lo), rest)
  | _ => .error .truncated

/-- The decoder on a row's word as spec/opcode_table.json numbers its bits: one 16-bit word, laid out big-endian. -/
def decodeTableWord (nbits w : Nat) : Option Instr :=
  let word := BitVec.ofNat 16 (w % 2 ^ nbits)
  match decodeBytes [highByte word, lowByte word] with
  | .ok (i, _) => some i
  | .error _ => none

/-- A word of pattern `hNNN`. -/
def encodeNNN (h : Nat) (nnn : Addr) : Word := BitVec.ofNat 16 (h * 4096 + nnn.toNat)
/-- A word of pattern `hXNN`. -/
def encodeXNN (h : Nat) (x : Reg) (nn : Byte) : Word := BitVec.ofNat 16 (h * 4096 + x.val * 256 + nn.toNat)
/-- A word of pattern `hXYn`. -/
def encodeXYN (h : Nat) (x y : Reg) (n : Nat) : Word := BitVec.ofNat 16 (h * 4096 + x.val * 256 + y.val * 16 + n)
/-- A word of pattern `hXnn`, the low byte fixed. -/
def encodeX (h : Nat) (x : Reg) (nn : Nat) : Word := BitVec.ofNat 16 (h * 4096 + x.val * 256 + nn)

/-- The word of an instruction, from its pattern in the map of R69. -/
def encode : Instr → Word
  | .cls => 0x00E0#16
  | .ret => 0x00EE#16
  | .jpNnn nnn => encodeNNN 0x1 nnn
  | .callNnn nnn => encodeNNN 0x2 nnn
  | .seVxNn x nn => encodeXNN 0x3 x nn
  | .sneVxNn x nn => encodeXNN 0x4 x nn
  | .seVxVy x y => encodeXYN 0x5 x y 0x0
  | .ldVxNn x nn => encodeXNN 0x6 x nn
  | .addVxNn x nn => encodeXNN 0x7 x nn
  | .ldVxVy x y => encodeXYN 0x8 x y 0x0
  | .orVxVy x y => encodeXYN 0x8 x y 0x1
  | .andVxVy x y => encodeXYN 0x8 x y 0x2
  | .xorVxVy x y => encodeXYN 0x8 x y 0x3
  | .addVxVy x y => encodeXYN 0x8 x y 0x4
  | .subVxVy x y => encodeXYN 0x8 x y 0x5
  | .shrVxVy x y => encodeXYN 0x8 x y 0x6
  | .subnVxVy x y => encodeXYN 0x8 x y 0x7
  | .shlVxVy x y => encodeXYN 0x8 x y 0xE
  | .sneVxVy x y => encodeXYN 0x9 x y 0x0
  | .ldINnn nnn => encodeNNN 0xA nnn
  | .jpV0Nnn nnn => encodeNNN 0xB nnn
  | .rndVxNn x nn => encodeXNN 0xC x nn
  | .drwVxVyN x y n => encodeXYN 0xD x y n.val
  | .skpVx x => encodeX 0xE x 0x9E
  | .sknpVx x => encodeX 0xE x 0xA1
  | .ldVxDt x => encodeX 0xF x 0x07
  | .ldVxK x => encodeX 0xF x 0x0A
  | .ldDtVx x => encodeX 0xF x 0x15
  | .ldStVx x => encodeX 0xF x 0x18
  | .addIVx x => encodeX 0xF x 0x1E
  | .ldFVx x => encodeX 0xF x 0x29
  | .ldBVx x => encodeX 0xF x 0x33
  | .ldMemVx x => encodeX 0xF x 0x55
  | .ldVxMem x => encodeX 0xF x 0x65
  | .unmatched w => w

end Sys2Proof
end

