-- ==== Sys2Proof/Machine/State.lean ====
section
/-! DEFINITION. The state of the block (spec/10_state.md R21) as plain data, the reasons a step stops, and the state after
reset. -/

namespace Sys2Proof.Machine

/-- Memory as the list of the bytes that differ from the reset contents, addresses strictly rising (log 5). -/
abbrev Memory := List Host.Cell

/-- `FB[row][col]`, 32 rows of 64 pixels, `true` = on, origin top-left (spec/10_state.md R30). -/
abbrev FrameBuffer := Vector (Vector Bool 64) 32

/-- What the environment supplies to one step (spec/40_execution_cycle.md R85). -/
structure StepInput where
  /-- The 60 Hz units the step's timer tick subtracts (R85, spec/45_input_timers.md R141). -/
  ticks : Nat
  /-- The random byte `CXNN` uses if the step executes it (R85). -/
  rand : Byte
deriving DecidableEq, Repr

/-- The faults of spec/60_exceptions.md R144. A fault ends the step, is returned to the host and leaves the state as it was
(R151): answering `fault` is exactly what the hardware does, so every one of them is safe. -/
inductive Fault where
  /-- Code 1, raised by the fetch of any step with pc ≥ 4095 (R145). Safe. -/
  | decodeFault (pc : Word)
  /-- Code 2, raised by `00EE` on an empty stack (R146). Safe. -/
  | stackUnderflow (pc : Word)
  /-- Code 3, raised by `DXYN`, `FX33`, `FX55`, `FX65`; `addr` is the smallest address ≥ 4096 of the access (R147). Safe; for
  `DXYN` the rows below the screen are checked too (D10, log 18). -/
  | memoryBounds (pc : Word) (addr : Nat)
  /-- Code 4, raised by `2NNN` on a full stack, only where `stackDepth = some d` (R148). Safe. -/
  | stackOverflow (pc : Word)
deriving DecidableEq, Repr

/-- The reasons the model has no next state and no fault of the hardware. -/
inductive Refusal where
  /-- Raised by an arm of `exec` whose instruction has no meaning yet. Safe. No arm does: every row is modelled. -/
  | notModelled (mnemonic : String)
  /-- Raised by the host's `reset(program)` on an image longer than 3584 bytes (spec/70_reset_and_hazards.md R161: "refuse").
  No step raises it. Safe. -/
  | programTooLong (length : Nat)
deriving DecidableEq, Repr

/-- The state record of spec/10_state.md R21, the configuration fixed at construction (R34), and the model's own two fields
for the inputs of the steps (log 1). -/
structure State where
  /-- Memory (R21; spec/20_memory.md R47). -/
  mem : Memory
  /-- V0..VF (R22); VF = `V[15]` is the flag register (R23). -/
  V : Vector Byte 16
  /-- The index register (R25). -/
  I : Word
  /-- The program counter (R26). -/
  pc : Word
  /-- The call stack, last element = top (R29). -/
  stack : List Word
  /-- The framebuffer (R30). -/
  FB : FrameBuffer
  /-- The delay timer (R31). -/
  DT : Byte
  /-- The sound timer (R31). -/
  ST : Byte
  /-- The input latch: the last key (R33). -/
  key : Option Nibble
  /-- The input latch: a key is pending (R33). -/
  keyPending : Bool
  /-- The host's pause control (R34). -/
  paused : Bool
  /-- The timer synchroniser's reference (R32), in seconds (log 8). -/
  lastTick : Time
  /-- Quirk, font and stack depth, fixed at construction (R34, R45; log 2, 3, 4). -/
  config : Config
  /-- THE MODEL'S OWN: the inputs the host has supplied for the completed steps to come, first the next one (log 1). -/
  inputs : List StepInput
  /-- THE MODEL'S OWN: how many completed steps have drawn their inputs; the free values are applied to it (log 1). -/
  draws : Nat
deriving DecidableEq, Repr

/-- The block right after construction with the default configuration (spec/70_reset_and_hazards.md R160, the middle column of
spec/10_state.md R46), with no program placed; log 2, 3, 4, 8, 10. -/
def State.reset : State where
  mem := []
  V := Vector.replicate 16 0
  I := 0
  pc := 512
  stack := []
  FB := Vector.replicate 32 (Vector.replicate 64 false)
  DT := 0
  ST := 0
  key := none
  keyPending := false
  paused := false
  lastTick := 0
  config := Config.default
  inputs := []
  draws := 0

end Sys2Proof.Machine
end

