-- ==== Sys2Proof/Machine/Ops.lean ====
section
/-! DEFINITION. The named operations over memory, registers, the stack, the framebuffer and the timers; how an instruction
ends (advance, redirect, fault); and the fetch. -/

namespace Sys2Proof.Machine

/-! ## Memory (spec/20_memory.md) -/

/-- `MEM_SIZE` (spec/00_scope.md R7). -/
def memSize : Nat := 4096

/-- What an address that is not listed reads as: the reset contents, font bytes at 0..79 and 0 elsewhere
(spec/10_state.md R42; glyph d at 5d..5d+4, spec/20_memory.md R48; log 5). -/
def Memory.unlisted (font : Font) (a : Nat) : Byte :=
  if h : a < 80 then
    have hd : a / 5 < 16 := by omega
    have hk : a % 5 < 5 := by omega
    font[a / 5][a % 5]
  else 0

/-- The byte at an address: its cell's, or the reset contents (R57). -/
def Memory.read (font : Font) : Memory → Nat → Byte
  | [], a => Memory.unlisted font a
  | c :: m, a => if c.1 = a then c.2 else Memory.read font m a

/-- Put a cell before the first cell of a higher address. -/
def Memory.insertCell (a : Nat) (b : Byte) : Memory → Memory
  | [] => [(a, b)]
  | c :: m => if a < c.1 then (a, b) :: c :: m else c :: Memory.insertCell a b m

/-- Store one byte: the old cell goes; a new one comes unless the byte is what the address reads as unlisted. -/
def Memory.write (font : Font) (m : Memory) (a : Nat) (b : Byte) : Memory :=
  let others := m.filter (fun c => c.1 ≠ a)
  if b = Memory.unlisted font a then others else Memory.insertCell a b others

/-- Store bytes at consecutive rising addresses (which are distinct, so the order of the writes does not show). -/
def Memory.writeBytes (font : Font) (m : Memory) (a : Nat) : List Byte → Memory
  | [] => m
  | b :: bs => Memory.write font (Memory.writeBytes font m (a + 1) bs) a b

/-- The canonical form: addresses strictly rising and inside memory, no cell equal to the reset contents (log 5). -/
abbrev Memory.wf (font : Font) (m : Memory) : Prop :=
  m.Pairwise (fun c d => c.1 < d.1) ∧ ∀ c ∈ m, c.1 < memSize ∧ c.2 ≠ Memory.unlisted font c.1

/-- `MemRead(addr, 1)` at an address inside memory (spec/00_scope.md R13; the bounds check is `withBounds`). -/
def State.readByte (s : State) (a : Nat) : Byte := Memory.read s.config.font s.mem a

/-- The `n` bytes from address `a` on. -/
def State.readBytes (s : State) (a n : Nat) : List Byte := (List.range n).map (fun k => s.readByte (a + k))

/-- `MemWrite` of consecutive bytes, one byte at a time (R13; the bounds check is `withBounds`). -/
def State.writeBytes (s : State) (a : Nat) (bs : List Byte) : State :=
  { s with mem := Memory.writeBytes s.config.font s.mem a bs }

/-- The first address `base + k`, k in 0..n-1, that is 4096 or more (spec/20_memory.md R55, R56). -/
def firstOutOfBounds (base n : Nat) : Option Nat :=
  ((List.range n).map (fun k => base + k)).find? (fun a => decide (memSize ≤ a))

/-! ## Registers -/

/-- `V[x]` (spec/00_scope.md R12). -/
def State.reg (s : State) (x : Reg) : Byte := s.V[x]

/-- `V[x] <- b` (R12). No register is hardwired (spec/10_state.md R22). -/
def State.setReg (s : State) (x : Reg) (b : Byte) : State := { s with V := s.V.set x b }

/-- VF, the flag register (`FLAG_REG` = 15, spec/00_scope.md R7). -/
def flagReg : Reg := 15

/-- `I <- w`. -/
def State.setI (s : State) (w : Word) : State := { s with I := w }

/-- `pc <- w`. -/
def State.setPc (s : State) (w : Word) : State := { s with pc := w }

/-- `DT <- b`. -/
def State.setDT (s : State) (b : Byte) : State := { s with DT := b }

/-- `ST <- b`. -/
def State.setST (s : State) (b : Byte) : State := { s with ST := b }

/-- `keyPending <- b`. -/
def State.setKeyPending (s : State) (b : Bool) : State := { s with keyPending := b }

/-- Replace the framebuffer. -/
def State.setFB (s : State) (fb : FrameBuffer) : State := { s with FB := fb }

/-- `push(a)`: the top is the last element (spec/00_scope.md R12). -/
def State.push (s : State) (a : Word) : State := { s with stack := s.stack ++ [a] }

/-- What `pop()` leaves: the stack without its last element (R12). -/
def State.dropTop (s : State) : State := { s with stack := s.stack.dropLast }

/-- The stack already holds `d` entries of a finite realisation (spec/42_flow.md R105); never, when it is unbounded. -/
def State.stackFull (s : State) : Bool := s.config.stackDepth == some s.stack.length

/-! ## How an instruction ends (spec/40_execution_cycle.md R79, R81) -/

/-- RAISING A FAULT, the block's one way of taking an exception: the step ends, the fault goes to the host and every effect is
discarded (R82, spec/60_exceptions.md R151: no vector, no saved register, no mode change; R152: no return from one). -/
def raise (f : Fault) : Host.Outcome State Fault Refusal := .fault f

/-- Control effect Advance: pc moves past the instruction's two bytes (R78, R79). The sum wraps at 16 bits only in states no
run reaches (spec/10_state.md R28, log 6). -/
def State.advance (s : State) : Host.Outcome State Fault Refusal := .next (s.setPc (s.pc + 2))

/-- Control effect Redirect: pc is what the instruction wrote (R79). -/
def State.redirect (s : State) (target : Word) : Host.Outcome State Fault Refusal := .next (s.setPc target)

/-- Every skip: pc + 4 when the condition holds, else pc + 2, both Redirect (spec/42_flow.md R107). -/
def State.skipIf (s : State) (cond : Bool) : Host.Outcome State Fault Refusal :=
  s.redirect (if cond then s.pc + 4 else s.pc + 2)

/-- Check the `n` addresses from I on before anything is read or written; the first one out of bounds is the fault's
(spec/20_memory.md R55, R56; spec/60_exceptions.md R147). -/
def State.withBounds (s : State) (n : Nat) (ok : Host.Outcome State Fault Refusal) : Host.Outcome State Fault Refusal :=
  match firstOutOfBounds s.I.toNat n with
  | some a => raise (.memoryBounds s.pc a)
  | none => ok

/-! ## The framebuffer (spec/41_display.md) -/

/-- The pixel at row r, column c (`false` outside the grid, which no rule reads). -/
def FrameBuffer.get (fb : FrameBuffer) (r c : Nat) : Bool :=
  if h : r < 32 ∧ c < 64 then (fb[r]'h.1)[c]'h.2 else false

/-- `FB[r][c] <- not FB[r][c]` inside the grid. -/
def FrameBuffer.toggle (fb : FrameBuffer) (r c : Nat) : FrameBuffer :=
  if h : r < 32 ∧ c < 64 then fb.set r ((fb[r]'h.1).set c (!(fb[r]'h.1)[c]'h.2) h.2) h.1 else fb

/-- `clear()`: every pixel false (R95). -/
def FrameBuffer.cleared : FrameBuffer := Vector.replicate 32 (Vector.replicate 64 false)

/-- Pixel p of a byte, most significant bit first: `(b >> (7 - p)) AND 1` (spec/00_scope.md R11). -/
def pixelBit (b : Byte) (p : Nat) : Bool := (b.toNat / 2 ^ (7 - p)) % 2 = 1

/-- One turn of `drawByte`'s loop: a set bit left of column 64 toggles its pixel and collides when it was on (R96). -/
def drawPixel (x y : Nat) (b : Byte) (acc : FrameBuffer × Bool) (p : Nat) : FrameBuffer × Bool :=
  if pixelBit b p ∧ x + p < 64 then
    (acc.1.toggle y (x + p), acc.2 || acc.1.get y (x + p))
  else acc

/-- `drawByte(x, y, b)`: the new framebuffer and whether a bit collided (R96); columns from 64 on are clipped (R97). -/
def drawByte (fb : FrameBuffer) (x y : Nat) (b : Byte) : FrameBuffer × Bool :=
  (List.range 8).foldl (drawPixel x y b) (fb, false)

/-- The second loop of `DXYN`: row by row from y on; a row beyond 31 is skipped, not wrapped (R100, R101). -/
def drawRows (fb : FrameBuffer) (x y : Nat) : List Byte → FrameBuffer × Bool
  | [] => (fb, false)
  | b :: bs =>
    let row := if y ≤ 31 then drawByte fb x y b else (fb, false)
    let rest := drawRows row.1 x (y + 1) bs
    (rest.1, row.2 || rest.2)

/-! ## The step's inputs, the tick and the fetch (spec/40_execution_cycle.md R78) -/

/-- The inputs of this step: the host's, or the free values (R85, log 1). -/
def State.stepInput (s : State) : StepInput :=
  match s.inputs with
  | inp :: _ => inp
  | [] => { ticks := Config.freeTicks s.draws, rand := Config.freeRand s.draws }

/-- A timer loses the ticks and stops at 0: `t - min(t, ticks)` (spec/45_input_timers.md R140). -/
def countDown (t : Byte) (ticks : Nat) : Byte := BitVec.ofNat 8 (t.toNat - min t.toNat ticks)

/-- `timerTick(ticks)`: both timers (R140), and the reference moves by the time accounted for (R142). -/
def State.timerTick (s : State) (ticks : Nat) : State :=
  { s with
    DT := countDown s.DT ticks
    ST := countDown s.ST ticks
    lastTick := s.lastTick + (ticks : Rat) / 60 }

/-- Move on to the next step's inputs (log 1). -/
def State.nextInput (s : State) : State := { s with inputs := s.inputs.tail, draws := s.draws + 1 }

/-- The end of a completed step: `keyPending <- false`, then the timer tick (R78). -/
def State.endStep (s : State) : State := ((s.setKeyPending false).timerTick s.stepInput.ticks).nextInput

/-- `Fetch(pc)`: DecodeFault when pc + 1 is not an address, else the big-endian word (spec/20_memory.md R51, R52, R53). -/
def State.fetch (s : State) : Except Fault Word :=
  if memSize ≤ s.pc.toNat + 1 then .error (.decodeFault s.pc)
  else .ok (wordOfBytes (s.readByte s.pc.toNat) (s.readByte (s.pc.toNat + 1)))

end Sys2Proof.Machine
end

