-- ==== Sys2Proof/Machine/Operands.lean ====
section
/-! DEFINITION. The operand forms (spec/30_encoding.md R66, R68) and the operands that depend on the quirk toggle
(spec/40_execution_cycle.md R94). -/

namespace Sys2Proof.Machine

/-- NNN as a 16-bit value, zero-extended (R68). -/
def addrWord (nnn : Addr) : Word := BitVec.ofNat 16 nnn.toNat

/-- X = NNN[11:8], the register index `BNNN` uses in quirk mode (R68, spec/42_flow.md R106). -/
def addrReg (nnn : Addr) : Reg := Fin.ofNat 16 (nnn.toNat / 256)

/-- The value `8XY6` and `8XYE` shift: VY in quirk mode, VX in legacy mode (spec/43_alu.md R123, R125; D2, D3, log 11). -/
def State.shiftSource (s : State) (x y : Reg) : Byte := if s.config.quirk then s.reg y else s.reg x

/-- The register `BNNN` adds: VX with X = NNN[11:8] in quirk mode, V0 in legacy mode (R106; D2, log 11). -/
def State.jumpOffset (s : State) (nnn : Addr) : Byte :=
  if s.config.quirk then s.reg (addrReg nnn) else s.reg 0

/-- The target of `BNNN`: NNN + V[r], not reduced to 12 bits (R106). -/
def State.offsetTarget (s : State) (nnn : Addr) : Word := BitVec.ofNat 16 (nnn.toNat + (s.jumpOffset nnn).toNat)

/-- The column a sprite starts at: `V[X] mod 64` (spec/41_display.md R100). -/
def State.spriteColumn (s : State) (x : Reg) : Nat := (s.reg x).toNat % 64

/-- The row a sprite starts at: `V[Y] mod 32` (R100). -/
def State.spriteRow (s : State) (y : Reg) : Nat := (s.reg y).toNat % 32

/-- The key a program sees in this step: the latched key while it is pending (spec/45_input_timers.md R133). A pending flag
without a key, which no run reaches (spec/10_state.md R33), counts as no key (log 7). -/
def State.pendingKey (s : State) : Option Nibble := if s.keyPending then s.key else none

/-- A key code as a byte, zero-extended (R136). -/
def keyByte (k : Nibble) : Byte := BitVec.ofNat 8 k.val

/-- The address of the glyph of a value's low digit: `(v mod 16) * 5` (spec/44_index_memory.md R129). -/
def glyphAddress (v : Byte) : Word := BitVec.ofNat 16 (v.toNat % 16 * 5)

/-- The decimal digits of a byte: hundreds, tens, units (R130). -/
def bcdDigits (v : Byte) : List Byte :=
  [BitVec.ofNat 8 (v.toNat / 100), BitVec.ofNat 8 (v.toNat / 10 % 10), BitVec.ofNat 8 (v.toNat % 10)]

/-- The values of V0..VX in order (R131). -/
def State.regsUpTo (s : State) (x : Reg) : List Byte := s.V.toList.take (x.val + 1)

/-- V0..VX replaced by the bytes from address `a` on: `V[k] <- MemRead(a + k, 1)` for k in 0..X (R132). -/
def State.loadRegs (s : State) (x : Reg) (a : Nat) : State :=
  { s with V := Vector.ofFn fun k : Fin 16 => if k.val ≤ x.val then s.readByte (a + k.val) else s.reg k }

/-- The address where the next instruction is fetched, or the program's entry where none can be fetched there. -/
def State.fetchAddress (s : State) : Nat := if memSize ≤ s.pc.toNat + 1 then 512 else s.pc.toNat

end Sys2Proof.Machine
end

