-- ==== Sys2Proof/Machine/Flags.lean ====
section
/-! DEFINITION. Saturation and the flag computations (spec/43_alu.md R113, R114): the flag is a byte 0 or 1 written to VF. -/

namespace Sys2Proof.Machine

/-- `sat8(n) = min(n, 255)` (spec/00_scope.md R10). -/
def sat8 (n : Nat) : Byte := BitVec.ofNat 8 (min n 255)

/-- `sat16(n) = min(n, 65535)` (R10). -/
def sat16 (n : Nat) : Word := BitVec.ofNat 16 (min n 65535)

/-- A flag as a byte: 1 or 0. -/
def flagByte (f : Bool) : Byte := if f then 1 else 0

/-- The saturating sum of two bytes (R121). -/
def addSat (a b : Byte) : Byte := sat8 (a.toNat + b.toNat)

/-- 1 iff the true sum exceeds 255 (R113, R121). -/
def addFlag (a b : Byte) : Byte := flagByte (decide (255 < a.toNat + b.toNat))

/-- `a - b` when `a > b`, else 0 (R122). -/
def subClamp (a b : Byte) : Byte := BitVec.ofNat 8 (if b.toNat < a.toNat then a.toNat - b.toNat else 0)

/-- 1 iff `a > b`, strictly (R113, R122). -/
def subFlag (a b : Byte) : Byte := flagByte (decide (b.toNat < a.toNat))

/-- `v >> 1` (R123). -/
def shiftRight (v : Byte) : Byte := BitVec.ofNat 8 (v.toNat / 2)

/-- The bit a right shift moves out: `v AND 1` (R123). -/
def shiftRightFlag (v : Byte) : Byte := flagByte (decide (v.toNat % 2 = 1))

/-- `(v << 1) mod 256` (R125). -/
def shiftLeft (v : Byte) : Byte := BitVec.ofNat 8 (v.toNat * 2 % 256)

/-- The bit a left shift moves out: `v >> 7` (R125). -/
def shiftLeftFlag (v : Byte) : Byte := flagByte (decide (128 ≤ v.toNat))

/-- Write the result to VX, then the flag to VF, so that VF holds the flag when X = 15 (R114; D4, log 12). -/
def State.writeFlagged (s : State) (x : Reg) (result flag : Byte) : State := (s.setReg x result).setReg flagReg flag

end Sys2Proof.Machine
end

