-- ==== Sys2Proof/Machine/Alu.lean ====
section
/-! DEFINITION. The register and ALU instructions (spec/43_alu.md R115–R126). All of them advance and none faults. -/

namespace Sys2Proof.Machine

/-- `6XNN`: `V[X] <- NN` (R115). -/
def execLdVxNn (x : Reg) (nn : Byte) (s : State) : Host.Outcome State Fault Refusal := (s.setReg x nn).advance

/-- `7XNN`: `V[X] <- sat8(V[X] + NN)`, VF not written (R116). -/
def execAddVxNn (x : Reg) (nn : Byte) (s : State) : Host.Outcome State Fault Refusal :=
  (s.setReg x (addSat (s.reg x) nn)).advance

/-- `8XY0`: `V[X] <- V[Y]` (R117). -/
def execLdVxVy (x y : Reg) (s : State) : Host.Outcome State Fault Refusal := (s.setReg x (s.reg y)).advance

/-- `8XY1`: `V[X] <- V[X] OR V[Y]`, VF not reset (R118; D27, log 13). -/
def execOrVxVy (x y : Reg) (s : State) : Host.Outcome State Fault Refusal := (s.setReg x (s.reg x ||| s.reg y)).advance

/-- `8XY2`: `V[X] <- V[X] AND V[Y]`, VF not reset (R119; D27, log 13). -/
def execAndVxVy (x y : Reg) (s : State) : Host.Outcome State Fault Refusal := (s.setReg x (s.reg x &&& s.reg y)).advance

/-- `8XY3`: `V[X] <- V[X] XOR V[Y]`, VF not reset (R120; D27, log 13). -/
def execXorVxVy (x y : Reg) (s : State) : Host.Outcome State Fault Refusal := (s.setReg x (s.reg x ^^^ s.reg y)).advance

/-- `8XY4`: saturating sum, VF = 1 iff the true sum exceeds 255 (R121). -/
def execAddVxVy (x y : Reg) (s : State) : Host.Outcome State Fault Refusal :=
  (s.writeFlagged x (addSat (s.reg x) (s.reg y)) (addFlag (s.reg x) (s.reg y))).advance

/-- `8XY5`: clamped V[X] - V[Y], VF = 1 iff V[X] > V[Y] (R122). -/
def execSubVxVy (x y : Reg) (s : State) : Host.Outcome State Fault Refusal :=
  (s.writeFlagged x (subClamp (s.reg x) (s.reg y)) (subFlag (s.reg x) (s.reg y))).advance

/-- `8XY6`: shift right, VF = the bit shifted out (R123). -/
def execShrVxVy (x y : Reg) (s : State) : Host.Outcome State Fault Refusal :=
  (s.writeFlagged x (shiftRight (s.shiftSource x y)) (shiftRightFlag (s.shiftSource x y))).advance

/-- `8XY7`: clamped V[Y] - V[X], VF = 1 iff V[Y] > V[X] (R124). -/
def execSubnVxVy (x y : Reg) (s : State) : Host.Outcome State Fault Refusal :=
  (s.writeFlagged x (subClamp (s.reg y) (s.reg x)) (subFlag (s.reg y) (s.reg x))).advance

/-- `8XYE`: shift left, bit 7 leaves the register for VF (R125; D5, log 14). -/
def execShlVxVy (x y : Reg) (s : State) : Host.Outcome State Fault Refusal :=
  (s.writeFlagged x (shiftLeft (s.shiftSource x y)) (shiftLeftFlag (s.shiftSource x y))).advance

/-- `CXNN`: `V[X] <- rand AND NN`, `rand` the step's random input (R126; log 1). -/
def execRndVxNn (x : Reg) (nn : Byte) (s : State) : Host.Outcome State Fault Refusal :=
  (s.setReg x (s.stepInput.rand &&& nn)).advance

end Sys2Proof.Machine
end

