-- ==== Sys2Proof/Machine/Display.lean ====
section
/-! DEFINITION. The display instructions (spec/41_display.md R99, R100). -/

namespace Sys2Proof.Machine

/-- `00E0`: every pixel false (R95, R99). -/
def execCls (s : State) : Host.Outcome State Fault Refusal := (s.setFB FrameBuffer.cleared).advance

/-- The framebuffer and collision of drawing the N bytes at I at (V[X] mod 64, V[Y] mod 32) (R100). -/
def State.drawSprite (s : State) (x y : Reg) (n : Nibble) : FrameBuffer × Bool :=
  drawRows s.FB (s.spriteColumn x) (s.spriteRow y) (s.readBytes s.I.toNat n.val)

/-- `DXYN`: all N addresses are checked (D10, log 18), the sprite is drawn, VF := 1 iff a row collided (R100). -/
def execDrwVxVyN (x y : Reg) (n : Nibble) (s : State) : Host.Outcome State Fault Refusal :=
  s.withBounds n.val
    ((s.setFB (s.drawSprite x y n).1).setReg flagReg (flagByte (s.drawSprite x y n).2)).advance

end Sys2Proof.Machine
end

