-- ==== Sys2Proof/Machine/Flow.lean ====
section
/-! DEFINITION. Control transfer, skips and the unmatched no-op (spec/42_flow.md R103–R111, spec/30_encoding.md R73). -/

namespace Sys2Proof.Machine

/-- `00EE`: pop the address of the call into pc, then Advance past the call; StackUnderflow on an empty stack (R103; D7, log 16). -/
def execRet (s : State) : Host.Outcome State Fault Refusal :=
  match s.stack.getLast? with
  | none => raise (.stackUnderflow s.pc)
  | some a => (s.dropTop.setPc a).advance

/-- `1NNN`: `pc <- NNN` (R104). -/
def execJpNnn (nnn : Addr) (s : State) : Host.Outcome State Fault Refusal := s.redirect (addrWord nnn)

/-- `2NNN`: push the address of this instruction, then `pc <- NNN` (R105; D7, log 16); StackOverflow only on a full finite stack. -/
def execCallNnn (nnn : Addr) (s : State) : Host.Outcome State Fault Refusal :=
  if s.stackFull then raise (.stackOverflow s.pc) else (s.push s.pc).redirect (addrWord nnn)

/-- `BNNN`: `pc <- NNN + V[r]` (R106). -/
def execJpV0Nnn (nnn : Addr) (s : State) : Host.Outcome State Fault Refusal := s.redirect (s.offsetTarget nnn)

/-- `3XNN`: skip if V[X] = NN (R108). -/
def execSeVxNn (x : Reg) (nn : Byte) (s : State) : Host.Outcome State Fault Refusal := s.skipIf (s.reg x == nn)

/-- `4XNN`: skip if V[X] ≠ NN (R109). -/
def execSneVxNn (x : Reg) (nn : Byte) (s : State) : Host.Outcome State Fault Refusal := s.skipIf (s.reg x != nn)

/-- `5XY0`: skip if V[X] = V[Y] (R110). -/
def execSeVxVy (x y : Reg) (s : State) : Host.Outcome State Fault Refusal := s.skipIf (s.reg x == s.reg y)

/-- `9XY0`: skip if V[X] ≠ V[Y] (R111). -/
def execSneVxVy (x y : Reg) (s : State) : Host.Outcome State Fault Refusal := s.skipIf (s.reg x != s.reg y)

/-- Any word of no pattern: no state is read or written, Advance (spec/30_encoding.md R73). -/
def execUnmatched (_w : Word) (s : State) : Host.Outcome State Fault Refusal := s.advance

end Sys2Proof.Machine
end

