-- ==== Sys2Proof/Machine/IndexMemory.lean ====
section
/-! DEFINITION. The index register and memory instructions (spec/44_index_memory.md R127–R132). All of them advance; the
memory ones check their addresses first (spec/20_memory.md R56; log 17). -/

namespace Sys2Proof.Machine

/-- The legacy increment of I by X + 1 after a block transfer; in quirk mode I stays (R131, R132; D2, log 11; D6, log 15). -/
def State.blockIndex (s : State) (x : Reg) : Word :=
  if s.config.quirk then s.I else sat16 (s.I.toNat + x.val + 1)

/-- `ANNN`: `I <- NNN` (R127). -/
def execLdINnn (nnn : Addr) (s : State) : Host.Outcome State Fault Refusal := (s.setI (addrWord nnn)).advance

/-- `FX1E`: `I <- sat16(I + V[X])`, VF not written (R128; D6, log 15). -/
def execAddIVx (x : Reg) (s : State) : Host.Outcome State Fault Refusal :=
  (s.setI (sat16 (s.I.toNat + (s.reg x).toNat))).advance

/-- `FX29`: `I <- (V[X] mod 16) * 5` (R129). -/
def execLdFVx (x : Reg) (s : State) : Host.Outcome State Fault Refusal := (s.setI (glyphAddress (s.reg x))).advance

/-- `FX33`: hundreds, tens, units of V[X] at I, I+1, I+2 (R130). -/
def execLdBVx (x : Reg) (s : State) : Host.Outcome State Fault Refusal :=
  s.withBounds 3 (s.writeBytes s.I.toNat (bcdDigits (s.reg x))).advance

/-- `FX55`: V0..VX at I, I+1, ..., I+X, then the legacy increment (R131). -/
def execLdMemVx (x : Reg) (s : State) : Host.Outcome State Fault Refusal :=
  s.withBounds (x.val + 1) ((s.writeBytes s.I.toNat (s.regsUpTo x)).setI (s.blockIndex x)).advance

/-- `FX65`: V0..VX from I, I+1, ..., I+X, then the legacy increment (R132). -/
def execLdVxMem (x : Reg) (s : State) : Host.Outcome State Fault Refusal :=
  s.withBounds (x.val + 1) ((s.loadRegs x s.I.toNat).setI (s.blockIndex x)).advance

end Sys2Proof.Machine
end

