-- ==== Sys2Proof/Machine/InputTimers.lean ====
section
/-! DEFINITION. The key and timer instructions (spec/45_input_timers.md R134–R139). None of them faults. -/

namespace Sys2Proof.Machine

/-- `EX9E`: skip if a key is pending and equals V[X]; with none pending no skip (R134; D15, log 19). -/
def execSkpVx (x : Reg) (s : State) : Host.Outcome State Fault Refusal :=
  s.skipIf (match s.pendingKey with
    | some k => keyByte k == s.reg x
    | none => false)

/-- `EXA1`: skip if a key is pending and differs from V[X]; with none pending no skip (R135; D15, log 19). -/
def execSknpVx (x : Reg) (s : State) : Host.Outcome State Fault Refusal :=
  s.skipIf (match s.pendingKey with
    | some k => keyByte k != s.reg x
    | none => false)

/-- `FX0A`: with a key pending, `V[X] <- k` and the flag is consumed; otherwise pc stays, so the next step executes the same
instruction again (R136). -/
def execLdVxK (x : Reg) (s : State) : Host.Outcome State Fault Refusal :=
  match s.pendingKey with
  | some k => ((s.setReg x (keyByte k)).setKeyPending false).advance
  | none => s.redirect s.pc

/-- `FX07`: `V[X] <- DT`, the value before this step's tick (R137). -/
def execLdVxDt (x : Reg) (s : State) : Host.Outcome State Fault Refusal := (s.setReg x s.DT).advance

/-- `FX15`: `DT <- V[X]`; the step's own tick follows (R138). -/
def execLdDtVx (x : Reg) (s : State) : Host.Outcome State Fault Refusal := (s.setDT (s.reg x)).advance

/-- `FX18`: `ST <- V[X]`; the step's own tick follows (R139). -/
def execLdStVx (x : Reg) (s : State) : Host.Outcome State Fault Refusal := (s.setST (s.reg x)).advance

end Sys2Proof.Machine
end

