-- ==== Sys2Proof/Machine/Step.lean ====
section
/-! DEFINITION. One call of `step()` (spec/40_execution_cycle.md R78), and the placing of an instruction where the next step
fetches. -/

namespace Sys2Proof.Machine

/-- `step()`: nothing while paused (R83; D16, log 20); otherwise fetch, decode, execute (the control effect is in the
meaning), clear the pending key, tick. A fault or refusal has no next state: the state is the one before the step (R82). -/
def step (s : State) : Host.Outcome State Fault Refusal :=
  if s.paused then .next s
  else
    match s.fetch with
    | .error f => raise f
    | .ok w =>
      match exec (decodeWord w) s with
      | .next t => .next t.endStep
      | .fault f => .fault f
      | .refused r => .refused r

/-- The state with one instruction word stored where the next step fetches. Where nothing could be fetched or run (paused, or
pc at 4095 or more) the pause is lifted and pc set to the program's entry, so that the next step runs the word (log 9). -/
def State.withFetchWord (s : State) (nbits w : Nat) : State :=
  let word := BitVec.ofNat 16 (w % 2 ^ nbits)
  let placed := s.writeBytes s.fetchAddress [highByte word, lowByte word]
  { placed with paused := false, pc := BitVec.ofNat 16 s.fetchAddress }

end Sys2Proof.Machine
end

