-- ==== Sys2Proof/Machine/Transactions.lean ====
section
/-! DEFINITION. The host's transactions (spec/40_execution_cycle.md R88): construct, reset, step with its inputs, setKey,
clearKey, togglePause, and the two reads, export and soundTimer. Each runs between steps, whole. -/

namespace Sys2Proof.Machine

/-- `construct(quirk, font)` at the wall-clock time `now`: the state that reset of an empty program gives, the framebuffer
all-false, no key, not paused (spec/70_reset_and_hazards.md R160, R45). `stackDepth` is the third parameter of R8. -/
def State.construct (config : Config) (now : Time) : State where
  mem := []
  V := Vector.replicate 16 0
  I := 0
  pc := 512
  stack := []
  FB := FrameBuffer.cleared
  DT := 0
  ST := 0
  key := none
  keyPending := false
  paused := false
  lastTick := now
  config := config
  inputs := []
  draws := 0

/-- `reset(program)` at the time `now`: refused above 3584 bytes; else memory is font, program and zeros, registers, I, stack
and timers are zeroed, pc is 512; FB, the latch, paused and the configuration stay (R161; D18, log 21). -/
def State.resetProgram (s : State) (program : List Byte) (now : Time) : Host.Outcome State Fault Refusal :=
  if memSize - 512 < program.length then .refused (.programTooLong program.length)
  else .next
    { s with
      mem := Memory.writeBytes s.config.font [] 512 program
      V := Vector.replicate 16 0
      I := 0
      pc := 512
      stack := []
      DT := 0
      ST := 0
      lastTick := now }

/-- `setKey(k)` (R89; D14, log 22). -/
def State.setKey (s : State) (k : Nibble) : State := { s with key := some k, keyPending := true }

/-- `clearKey()` (R90; D14, log 22). -/
def State.clearKey (s : State) : State := { s with key := none, keyPending := false }

/-- `togglePause()` (R91; D16, log 20). -/
def State.togglePause (s : State) : State := { s with paused := !s.paused }

/-- `export()`: the 2048 pixels, row-major (spec/41_display.md R98). A read: there is no new state. -/
def State.exportPixels (s : State) : List Bool := (s.FB.toList.map Vector.toList).flatten

/-- `soundTimer()`: the value of ST (R92). A read: there is no new state. -/
def State.soundTimer (s : State) : Byte := s.ST

/-- The host supplies the inputs of the next completed step (R85). -/
def State.withInput (s : State) (inp : StepInput) : State := { s with inputs := inp :: s.inputs }

/-- `step(ticks, rand)`; a paused one changes nothing, its inputs included (R83). -/
def stepWith (inp : StepInput) (s : State) : Host.Outcome State Fault Refusal :=
  if s.paused then .next s else step (s.withInput inp)

/-- The units a step at wall-clock time `now` subtracts in an implementation: `floor((now - lastTick) * 60)`
(spec/45_input_timers.md R141). DESIGN CHOICE, log 28: where `now` is before `lastTick`, which the spec leaves open, it is 0. `step`
does not use it: its ticks are free. -/
def State.elapsedTicks (s : State) (now : Time) : Nat := ((now - s.lastTick) * 60).floor.toNat

/-- The code of a fault (spec/60_exceptions.md R144; D23, log 23). -/
def faultCode : Fault → Nat
  | .decodeFault _ => 1
  | .stackUnderflow _ => 2
  | .memoryBounds _ _ => 3
  | .stackOverflow _ => 4

/-- The transactions that can change the state. -/
inductive Transaction where
  /-- `reset(program)`, run at the time `now` (R161). -/
  | reset (program : List Byte) (now : Time)
  /-- `step(ticks, rand)` (R78). -/
  | step (inp : StepInput)
  /-- `setKey(k)` (R89). -/
  | setKey (k : Nibble)
  /-- `clearKey()` (R90). -/
  | clearKey
  /-- `togglePause()` (R91). -/
  | togglePause
deriving DecidableEq, Repr

/-- What a transaction returns to the host (R81, R161). -/
inductive Report where
  /-- `Ok`. -/
  | ok
  /-- `Fault(kind, info)`. -/
  | fault (f : Fault)
  /-- The transaction is refused. -/
  | refused (r : Refusal)
deriving DecidableEq, Repr

/-- The state after an outcome and the report of it: a fault or a refusal leaves the state as it was (R82, R161). -/
def settle (before : State) : Host.Outcome State Fault Refusal → State × Report
  | .next t => (t, .ok)
  | .fault f => (before, .fault f)
  | .refused r => (before, .refused r)

/-- One transaction on a block in state `s` (R88). -/
def runTransaction : Transaction → State → State × Report
  | .reset program now, s => settle s (s.resetProgram program now)
  | .step inp, s => settle s (stepWith inp s)
  | .setKey k, s => (s.setKey k, .ok)
  | .clearKey, s => (s.clearKey, .ok)
  | .togglePause, s => (s.togglePause, .ok)

/-- Transactions one after another. -/
def runTransactions : List Transaction → State → State
  | [], s => s
  | t :: ts, s => runTransactions ts (runTransaction t s).1

end Sys2Proof.Machine
end

