-- ==== Sys2Proof/Safety.lean ====
section
/-! DEFINITION. What a safe run is, in the terms the statements use: the invariant of the machine, the causes of faults as the
spec tabulates them, and the runs in which nothing faults. -/

namespace Sys2Proof.Machine

/-- What every state reached from construction by any transactions satisfies. -/
structure State.Inv (s : State) : Prop where
  /-- Memory is in its canonical form (log 5). -/
  memWf : Memory.wf s.config.font s.mem
  /-- "The largest value any rule can write to pc is 0xFFF + 0xFF = 0x10FE" (spec/10_state.md R28). -/
  pcBound : s.pc.toNat ≤ 0x10FE
  /-- A pushed address is that of a fetched instruction, "at most 4094" (R28). -/
  stackBound : ∀ a ∈ s.stack, a.toNat ≤ 4094
  /-- "`keyPending = true` implies `key ≠ none`" (R33). -/
  pendingHasKey : s.keyPending = true → s.key ≠ none
  /-- A finite stack never holds more than its depth (spec/42_flow.md R105). -/
  stackFits : ∀ d, s.config.stackDepth = some d → s.stack.length ≤ d

/-- The accesses of the four memory instructions: how many bytes from I on (spec/20_memory.md R54). -/
def accessLength : Instr → Nat
  | .drwVxVyN _ _ n => n.val
  | .ldBVx _ => 3
  | .ldMemVx x => x.val + 1
  | .ldVxMem x => x.val + 1
  | _ => 0

/-- The fault an instruction raises, from the table of spec/60_exceptions.md R144 to R148, or none (R149). -/
def faultCause (i : Instr) (s : State) : Option Fault :=
  if i = .ret ∧ s.stack = [] then some (.stackUnderflow s.pc)
  else if (∃ nnn, i = .callNnn nnn) ∧ s.config.stackDepth = some s.stack.length then some (.stackOverflow s.pc)
  else if 0 < accessLength i ∧ memSize < s.I.toNat + accessLength i then
    some (.memoryBounds s.pc (max s.I.toNat memSize))
  else none

/-- A run of `n` steps from `s` in which no step faults or is refused. -/
def SafeRun (n : Nat) (s : State) : Prop := ∃ t, Host.Core.run Sys2Proof.core n s = .next t

/-- States that some list of transactions reaches from a constructed block (spec/40_execution_cycle.md R88). -/
def Reachable (s : State) : Prop :=
  ∃ config now ts, s = runTransactions ts (State.construct config now)

end Sys2Proof.Machine
end

