-- ==== Sys2Proof/Certificates/Slice0/Obligations.lean ====
section
/-! DEFINITION. The statements for the provers. Addition on pc is 16-bit; it is the natural sum in every state whose pc can be
fetched from (spec/10_state.md R28; elsewhere log 6). `s.stepInput` is the pair (ticks, rand) of the step; a statement about it
holds for every pair (log 1). Statements named as resting on a decision D<n> of spec/92_eei_decisions.md rest on the spec's own
choice where its source is silent. -/

namespace Sys2Proof.Statements
open Sys2Proof.Machine

/-- What an instruction may write besides pc: registers, components of the state, and `count` bytes of memory from `base`. -/
structure Writes where
  regs : List Reg := []
  index : Bool := false
  stack : Bool := false
  pixels : Bool := false
  delay : Bool := false
  sound : Bool := false
  pending : Bool := false
  base : Nat := 0
  count : Nat := 0

/-- The frame: outside `w` everything but pc is as before, each register, every byte of memory, and the latch, pause, time,
configuration fields, which no instruction writes, and the model's own two input fields (log 1). -/
def FrameOutside (w : Writes) (s t : State) : Prop :=
  (∀ y, y ∉ w.regs → t.reg y = s.reg y) ∧
  (∀ a, ¬ (w.base ≤ a ∧ a < w.base + w.count) → t.readByte a = s.readByte a) ∧
  (w.index = false → t.I = s.I) ∧ (w.stack = false → t.stack = s.stack) ∧ (w.pixels = false → t.FB = s.FB) ∧
  (w.delay = false → t.DT = s.DT) ∧ (w.sound = false → t.ST = s.ST) ∧
  (w.pending = false → t.keyPending = s.keyPending) ∧ t.key = s.key ∧ t.paused = s.paused ∧ t.lastTick = s.lastTick ∧
  t.config = s.config ∧ t.inputs = s.inputs ∧ t.draws = s.draws

/-- The registers V0..VX. -/
def regsTo (x : Reg) : List Reg := (List.finRange 16).filter (fun y => y.val ≤ x.val)

/-- Who writes what: the writer sentences of spec/10_state.md R22, R23, R25, R29, R30, R31, R33 and the stores of
spec/20_memory.md R54, one line per instruction. -/
def writesOf (i : Instr) (s : State) : Writes :=
  match i with
  | .cls => { pixels := true }
  | .ret => { stack := true }
  | .callNnn _ => { stack := true }
  | .jpNnn _ | .jpV0Nnn _ | .seVxNn _ _ | .sneVxNn _ _ | .seVxVy _ _ | .sneVxVy _ _ | .skpVx _ | .sknpVx _ | .unmatched _ => {}
  | .ldVxNn x _ | .addVxNn x _ | .ldVxVy x _ | .orVxVy x _ | .andVxVy x _ | .xorVxVy x _ | .rndVxNn x _ | .ldVxDt x =>
    { regs := [x] }
  | .addVxVy x _ | .subVxVy x _ | .shrVxVy x _ | .subnVxVy x _ | .shlVxVy x _ => { regs := [x, 15] }
  | .ldINnn _ | .addIVx _ | .ldFVx _ => { index := true }
  | .drwVxVyN _ _ _ => { regs := [15], pixels := true }
  | .ldVxK x => { regs := [x], pending := true }
  | .ldDtVx _ => { delay := true }
  | .ldStVx _ => { sound := true }
  | .ldBVx _ => { base := s.I.toNat, count := 3 }
  | .ldMemVx x => { index := !s.config.quirk, base := s.I.toNat, count := x.val + 1 }
  | .ldVxMem x => { regs := regsTo x, index := !s.config.quirk }

/-- The byte at address `a` after a completed instruction: a decimal digit `FX33` stored (R130), a register `FX55` stored (R131),
or the byte from before. -/
def byteAfter (i : Instr) (s : State) (a : Nat) : Byte :=
  match i with
  | .ldBVx x =>
    if a = s.I.toNat then BitVec.ofNat 8 ((s.reg x).toNat / 100)
    else if a = s.I.toNat + 1 then BitVec.ofNat 8 ((s.reg x).toNat / 10 % 10)
    else if a = s.I.toNat + 2 then BitVec.ofNat 8 ((s.reg x).toNat % 10)
    else s.readByte a
  | .ldMemVx x => if s.I.toNat ≤ a ∧ a ≤ s.I.toNat + x.val then s.reg (Fin.ofNat 16 (a - s.I.toNat)) else s.readByte a
  | _ => s.readByte a

/-- The instructions that return Redirect (spec/40_execution_cycle.md R79), FX0A's waiting case apart. -/
def redirects (i : Instr) : Prop :=
  match i with
  | .jpNnn _ | .callNnn _ | .jpV0Nnn _ | .seVxNn _ _ | .sneVxNn _ _ | .seVxVy _ _ | .sneVxVy _ _ | .skpVx _ | .sknpVx _ => True
  | _ => False

/-- The instructions that write VF as a side effect (spec/10_state.md R23). -/
def writesFlag (i : Instr) : Prop :=
  match i with
  | .addVxVy _ _ | .subVxVy _ _ | .shrVxVy _ _ | .subnVxVy _ _ | .shlVxVy _ _ | .drwVxVyN _ _ _ => True
  | _ => False

/-- The classes of unmatched words, digit by digit (spec/30_encoding.md R73). -/
def UnmatchedClass (w : Word) : Prop :=
  (w.toNat / 4096 = 0x0 ∧ w.toNat % 4096 ∉ [0x0E0, 0x0EE]) ∨
  ((w.toNat / 4096 = 0x5 ∨ w.toNat / 4096 = 0x9) ∧ w.toNat % 16 ≠ 0) ∨
  (w.toNat / 4096 = 0x8 ∧ w.toNat % 16 ∈ [0x8, 0x9, 0xA, 0xB, 0xC, 0xD, 0xF]) ∨
  (w.toNat / 4096 = 0xE ∧ w.toNat % 256 ∉ [0x9E, 0xA1]) ∨
  (w.toNat / 4096 = 0xF ∧ w.toNat % 256 ∉ [0x07, 0x0A, 0x15, 0x18, 0x1E, 0x29, 0x33, 0x55, 0x65])

/-- The word at pc: `MemRead(pc,1) * 256 + MemRead(pc+1,1)` (spec/20_memory.md R51). -/
def wordAtPc (s : State) : Word :=
  BitVec.ofNat 16 ((s.readByte s.pc.toNat).toNat * 256 + (s.readByte (s.pc.toNat + 1)).toNat)

/-- The step runs: not paused, and pc and pc + 1 are addresses (R78; spec/20_memory.md R52). -/
def Runs (s : State) : Prop := s.paused = false ∧ s.pc.toNat + 1 < 4096

/-- The sprite of `DXYN` has a set, visible bit on the pixel (r, c): the shift of R11 applied to row r - y0, column c - x0. -/
def spriteOn (s : State) (x y : Reg) (n : Nibble) (r c : Nat) : Prop :=
  (s.reg y).toNat % 32 ≤ r ∧ r < (s.reg y).toNat % 32 + n.val ∧ r < 32 ∧
  (s.reg x).toNat % 64 ≤ c ∧ c < (s.reg x).toNat % 64 + 8 ∧ c < 64 ∧
  ((s.readByte (s.I.toNat + (r - (s.reg y).toNat % 32))).toNat >>> (7 - (c - (s.reg x).toNat % 64))) &&& 1 = 1

/-- Steps at given wall-clock times, each with the ticks an implementation computes (spec/45_input_timers.md R141) and any
random byte; the state after them and the sum of their ticks, when every one completes. -/
def runAt : List (Time × Byte) → State → Option (State × Nat)
  | [], s => some (s, 0)
  | (now, rand) :: later, s =>
    match stepWith { ticks := s.elapsedTicks now, rand := rand } s with
    | .next t => (runAt later t).map (fun p => (p.1, s.elapsedTicks now + p.2))
    | _ => none

end Sys2Proof.Statements

open Sys2Proof Sys2Proof.Machine Sys2Proof.Statements

/-! ## Encoding and decoding (spec/30_encoding.md) -/

/-- Decoding the word of a well-formed instruction gives it back, every operand at every value. -/
def Obligations.DecodeOfEncodeIsTheInstruction : Prop :=
  ∀ i : Instr, i.wellFormed = true → decodeWord (encode i) = i

/-- The decoder is total and loses no bit: what it answers is well-formed and is encoded as the same word (R67, R74). -/
def Obligations.EncodeOfDecodeIsTheWord : Prop :=
  ∀ w : Word, (decodeWord w).wellFormed = true ∧ encode (decodeWord w) = w

/-- A word decodes to the instruction of a row exactly when its bits under the row's mask are the row's match word, and no word
matches two rows (R70, R71; that every fixed digit must match is decision D8, log 24, and the spec derives R71). -/
def Obligations.DecoderFollowsMaskAndMatch : Prop :=
  (∀ w : Word, ∀ r ∈ opcodeTable, r.Matches w ↔ (decodeWord w).mnemonic = r.mnemonic) ∧
  (∀ w : Word, ∀ r ∈ opcodeTable, ∀ q ∈ opcodeTable, r.Matches w → q.Matches w → r = q)

/-- Words written out from the patterns decode to what they stand for (a sanity statement; DEC-1, DEC-2, DEC-5). -/
def Obligations.SampleWordsDecode : Prop :=
  decodeWord 0x00E0 = .cls ∧ decodeWord 0xD12F = .drwVxVyN 1 2 15 ∧ decodeWord 0x5120 = .seVxVy 1 2 ∧
  decodeWord 0x812E = .shlVxVy 1 2 ∧ decodeWord 0xE1A1 = .sknpVx 1 ∧ decodeWord 0xF165 = .ldVxMem 1 ∧
  decodeWord 0x7A0C = .addVxNn 10 12 ∧ decodeWord 0x2ABC = .callNnn 0xABC

/-- R73: the words of the listed classes, and only they, are unmatched; such a word reads and writes nothing and advances, and
its step still clears the pending flag and ticks the timers. -/
def Obligations.UnmatchedWordsAreNoOps : Prop :=
  (∀ w : Word, UnmatchedClass w ↔ decodeWord w = .unmatched w) ∧ decodeWord 0x0000 = .unmatched 0x0000 ∧
  (∀ (w : Word) (s : State), ∃ t, exec (.unmatched w) s = .next t ∧ t.pc = s.pc + 2 ∧ FrameOutside {} s t) ∧
  (∀ s : State, Runs s → UnmatchedClass (wordAtPc s) → ∃ t, step s = .next t ∧ t.pc = s.pc + 2 ∧ t.keyPending = false ∧
    t.DT.toNat = s.DT.toNat - s.stepInput.ticks ∧ t.ST.toNat = s.ST.toNat - s.stepInput.ticks ∧
    (∀ x, t.reg x = s.reg x) ∧ (∀ a, t.readByte a = s.readByte a) ∧ t.I = s.I ∧ t.stack = s.stack ∧ t.FB = s.FB)

/-! ## The step (spec/40_execution_cycle.md) -/

/-- A step that runs is `exec` of the instruction the two bytes at pc decode to, and then the end of the step: the pending flag
cleared, both timers and the reference ticked; a fault of `exec` is the step's (R78; that the reference moves by ticks / 60 is R142,
decision D13). THE MODEL'S CHOICE, log 1 and no rule of the spec: the list of inputs loses its first entry and the count of draws
goes up by one. -/
def Obligations.StepRunsTheDecodedInstruction : Prop :=
  ∀ (s : State) (i : Instr), Runs s → decodeWord (wordAtPc s) = i →
    (∀ t, exec i s = .next t → ∃ u, step s = .next u ∧ u.V = t.V ∧ u.mem = t.mem ∧ u.I = t.I ∧ u.pc = t.pc ∧
      u.stack = t.stack ∧ u.FB = t.FB ∧ u.key = t.key ∧ u.keyPending = false ∧ u.paused = t.paused ∧ u.config = t.config ∧
      u.DT.toNat = t.DT.toNat - s.stepInput.ticks ∧ u.ST.toNat = t.ST.toNat - s.stepInput.ticks ∧
      u.lastTick = t.lastTick + (s.stepInput.ticks : Rat) / 60 ∧ u.inputs = t.inputs.tail ∧ u.draws = t.draws + 1) ∧
    (∀ f, exec i s = .fault f → step s = .fault f)

/-- A paused step answers with the state unchanged, whatever inputs the host gives it (R83, decision D16, log 20). -/
def Obligations.PausedStepChangesNothing : Prop :=
  ∀ (s : State) (inp : StepInput), s.paused = true →
    step s = .next s ∧ runTransaction (.step inp) s = (s, .ok)

/-- R145: DecodeFault is raised exactly by a step that is not paused with pc at 4095 or more, records that pc, and depends on no
byte of memory. -/
def Obligations.DecodeFaultExactlyPastTheEnd : Prop :=
  ∀ (s : State) (p : Word), step s = .fault (.decodeFault p) ↔ s.paused = false ∧ 4095 ≤ s.pc.toNat ∧ p = s.pc

/-- R140: at the end of a completed step both timers have lost the step's ticks and stopped at 0; `FX15` and `FX18` write before
the tick; a paused or a faulting step does not tick. -/
def Obligations.TimersTickAtTheEndOfEveryStep : Prop :=
  (∀ s t : State, Runs s → step s = .next t →
    (∀ x, decodeWord (wordAtPc s) = .ldDtVx x → t.DT.toNat = (s.reg x).toNat - s.stepInput.ticks) ∧
    ((∀ x, decodeWord (wordAtPc s) ≠ .ldDtVx x) → t.DT.toNat = s.DT.toNat - s.stepInput.ticks) ∧
    (∀ x, decodeWord (wordAtPc s) = .ldStVx x → t.ST.toNat = (s.reg x).toNat - s.stepInput.ticks) ∧
    ((∀ x, decodeWord (wordAtPc s) ≠ .ldStVx x) → t.ST.toNat = s.ST.toNat - s.stepInput.ticks)) ∧
  (∀ s : State, s.paused = true → ∃ t, step s = .next t ∧ t.DT = s.DT ∧ t.ST = s.ST) ∧
  (∀ (s t : State) (inp : StepInput) (f : Fault), runTransaction (.step inp) s = (t, .fault f) → t.DT = s.DT ∧ t.ST = s.ST)

/-- The synchroniser loses no time: over steps at rising wall-clock times, each with the ticks of R141, the sum of the ticks is
the floor of 60 times the time since the reference, however often the host steps, and the reference has moved by exactly the
time accounted for (R142, decision D13; C4; the seconds are exact rationals, log 8). -/
def Obligations.TicksSumToElapsedTime : Prop :=
  ∀ (s t : State) (n : Nat) (earlier : List (Time × Byte)) (final : Time) (rand : Byte), s.paused = false →
    (s.lastTick :: (earlier ++ [(final, rand)]).map Prod.fst).Pairwise (· ≤ ·) →
    runAt (earlier ++ [(final, rand)]) s = some (t, n) →
    (n : Int) = ((final - s.lastTick) * 60).floor ∧ t.lastTick = s.lastTick + (n : Rat) / 60

/-- A latched key is visible in the next step, and a completed step leaves none pending, whatever instruction it ran (R133, R78).
That the latch keeps the key itself is the spec's decision D14, log 22 (R33). -/
def Obligations.KeyVisibleForOneStep : Prop :=
  (∀ (s : State) (k : Nibble), (s.setKey k).pendingKey = some k) ∧
  (∀ s t : State, Runs s → step s = .next t → t.keyPending = false ∧ t.pendingKey = none ∧ t.key = s.key)

/-! ## Invariants -/

/-- The invariant holds right after reset. -/
def Obligations.ResetSatisfiesInvariant : Prop := State.reset.Inv

/-- Every step keeps the invariant: memory canonical, pc at most 0x10FE, return addresses at most 4094 (R28), a pending flag
only with a key (R33), a finite stack within its depth. -/
def Obligations.StepKeepsInvariant : Prop :=
  ∀ s t : State, s.Inv → step s = .next t → t.Inv

/-- Every transaction of the host keeps the invariant (R88). -/
def Obligations.TransactionsKeepInvariant : Prop :=
  ∀ (tr : Transaction) (s : State), s.Inv → (runTransaction tr s).1.Inv

/-- From any configuration, any transactions in any order reach only states of the invariant. -/
def Obligations.ReachableStatesSatisfyInvariant : Prop :=
  ∀ s : State, Reachable s → s.Inv

/-! ## Rules over all instructions -/

/-- Every instruction keeps everything outside what the spec says it writes (the writer sentences of R22 to R33, R54). -/
def Obligations.EveryInstructionKeepsItsFrame : Prop :=
  ∀ (i : Instr) (s t : State), exec i s = .next t → FrameOutside (writesOf i s) s t

/-- A flag-writing instruction leaves 0 or 1 in VF, VF named as its own operand or not (R23, R114; the write order is decision
D4, log 12). -/
def Obligations.FlagWritersLeaveZeroOrOne : Prop :=
  ∀ (i : Instr) (s t : State), writesFlag i → exec i s = .next t → t.reg 15 = 0 ∨ t.reg 15 = 1

/-- Every instruction that does not redirect leaves pc two past it, but for a return (pc from the stack) and a waiting key read
(R79, decision D7, log 16). -/
def Obligations.OtherInstructionsAdvanceByTwo : Prop :=
  ∀ (i : Instr) (s t : State), ¬ redirects i → i ≠ .ret → (∀ x, i = .ldVxK x → s.pendingKey ≠ none) →
    exec i s = .next t → t.pc = s.pc + 2

/-- No step and no transaction changes the configuration (R34, R45, decision D17); only togglePause changes `paused`. -/
def Obligations.ConfigurationNeverChanges : Prop :=
  (∀ s t : State, step s = .next t → t.config = s.config ∧ t.paused = s.paused) ∧
  (∀ (tr : Transaction) (s : State), (runTransaction tr s).1.config = s.config ∧
    ((runTransaction tr s).1.paused = if tr = .togglePause then !s.paused else s.paused))

/-! ## Faults (spec/60_exceptions.md) -/

/-- An instruction faults exactly as the fault table says, and nothing else faults (R144, R146 to R150; D10, D20). -/
def Obligations.FaultsExactlyAsTabulated : Prop :=
  ∀ (i : Instr) (s : State) (f : Fault), exec i s = .fault f ↔ faultCause i s = some f

/-- Every instruction has a meaning: it completes in every state in which it does not fault, and is never refused (R74). -/
def Obligations.EveryInstructionCompletesOrFaults : Prop :=
  ∀ (i : Instr) (s : State), (∀ r, exec i s ≠ .refused r) ∧ (faultCause i s = none → ∃ t, exec i s = .next t)

/-- R146: `00EE` on an empty stack raises StackUnderflow with the pc of the instruction. -/
def Obligations.ReturnOnEmptyStackFaults : Prop :=
  ∀ s : State, s.stack = [] → exec .ret s = .fault (.stackUnderflow s.pc)

/-- An access with an address of 4096 or more faults with the smallest such address, for each of the four memory instructions
(R147; the rows of a sprite below the screen count too, decision D10, log 18). -/
def Obligations.BoundsFaultNamesTheFirstBadAddress : Prop :=
  ∀ (i : Instr) (s : State), (∃ k, k < accessLength i ∧ 4096 ≤ s.I.toNat + k) →
    ∃ a, exec i s = .fault (.memoryBounds s.pc a) ∧ 4096 ≤ a ∧ (∃ k, k < accessLength i ∧ a = s.I.toNat + k) ∧
      ∀ k, k < accessLength i → 4096 ≤ s.I.toNat + k → a ≤ s.I.toNat + k

/-- A transaction that faults leaves the state exactly as it was, records the pc in that state, and, repeated, faults the same way
(R82, R86, R151; decisions D9, D23, log 17). -/
def Obligations.FaultLeavesTheStateAndRepeats : Prop :=
  ∀ (tr : Transaction) (s : State) (f : Fault), (runTransaction tr s).2 = .fault f →
    (runTransaction tr s).1 = s ∧ runTransaction tr (runTransaction tr s).1 = (s, .fault f) ∧
    (f = .decodeFault s.pc ∨ f = .stackUnderflow s.pc ∨ (∃ a, 4096 ≤ a ∧ f = .memoryBounds s.pc a) ∨ f = .stackOverflow s.pc)

/-! ## Display (spec/41_display.md) -/

/-- R95, R99: `00E0` turns every pixel off, advances, and changes nothing else. -/
def Obligations.ClearScreenTurnsEveryPixelOff : Prop :=
  ∀ s : State, ∃ t, exec .cls s = .next t ∧ (∀ r c, r < 32 → c < 64 → t.FB.get r c = false) ∧ t.pc = s.pc + 2 ∧
    FrameOutside { pixels := true } s t

/-- R96, R97: `drawByte` XORs the bits, most significant first, into one row from its column on, draws nothing at or beyond column
64, and reports a collision exactly when a drawn set bit met a pixel that was on. -/
def Obligations.DrawByteXorsClipsAndReports : Prop :=
  ∀ (fb : FrameBuffer) (x y : Nat) (b : Byte), x < 64 → y < 32 →
    (∀ p, p < 8 → x + p < 64 → (drawByte fb x y b).1.get y (x + p) =
      (fb.get y (x + p) ^^ ((b.toNat >>> (7 - p)) &&& 1 == 1))) ∧
    (∀ r c, r < 32 → c < 64 → (r ≠ y ∨ c < x ∨ x + 8 ≤ c) → (drawByte fb x y b).1.get r c = fb.get r c) ∧
    ((drawByte fb x y b).2 = true ↔
      ∃ p, p < 8 ∧ x + p < 64 ∧ (b.toNat >>> (7 - p)) &&& 1 = 1 ∧ fb.get y (x + p) = true)

/-- `DXYN` with all its addresses in memory XORs its visible bits into the framebuffer, sets VF to 1 exactly when one of them met
a pixel that was on and to 0 otherwise (N = 0 too), advances, and changes nothing else (R100, R101; the bounds check of skipped
rows is decision D10, log 18). -/
def Obligations.DrawSpriteXorsAndReportsCollision : Prop :=
  ∀ (s : State) (x y : Reg) (n : Nibble), (∀ k, k < n.val → s.I.toNat + k < 4096) →
    ∃ t, exec (.drwVxVyN x y n) s = .next t ∧
      (∀ r c, r < 32 → c < 64 → (spriteOn s x y n r c → t.FB.get r c = !s.FB.get r c) ∧
        (¬ spriteOn s x y n r c → t.FB.get r c = s.FB.get r c)) ∧
      ((∃ r c, spriteOn s x y n r c ∧ s.FB.get r c = true) → t.reg 15 = 1) ∧
      ((¬ ∃ r c, spriteOn s x y n r c ∧ s.FB.get r c = true) → t.reg 15 = 0) ∧
      t.pc = s.pc + 2 ∧ FrameOutside { regs := [15], pixels := true } s t

/-- Drawing the same sprite again at the same place restores the framebuffer, and the second VF is 1 exactly when some visible set
bit fell on a pixel that was off before the first draw (R102, which the spec derives; C8). The premise on the coordinates fails
only where X or Y is 15. -/
def Obligations.DrawingTwiceRestoresThePixels : Prop :=
  ∀ (s t : State) (x y : Reg) (n : Nibble), exec (.drwVxVyN x y n) s = .next t →
    (t.reg x).toNat % 64 = (s.reg x).toNat % 64 → (t.reg y).toNat % 32 = (s.reg y).toNat % 32 →
    ∃ u, exec (.drwVxVyN x y n) t = .next u ∧ u.FB = s.FB ∧
      (u.reg 15 = 1 ↔ ∃ r c, spriteOn s x y n r c ∧ s.FB.get r c = false)

/-- R98: the export is the 2048 pixels row by row: element 64 r + c is the pixel at row r, column c. -/
def Obligations.ExportIsRowMajor : Prop :=
  ∀ s : State, s.exportPixels.length = 2048 ∧
    ∀ r c, r < 32 → c < 64 → s.exportPixels[64 * r + c]? = some (s.FB.get r c)

/-! ## Control transfer and skips (spec/42_flow.md) -/

/-- `00EE` pops the last pushed address into pc and the step's advance resumes two past it (R103; decision D7, log 16). -/
def Obligations.ReturnResumesAfterTheCall : Prop :=
  ∀ (s : State) (below : List Word) (a : Word), s.stack = below ++ [a] →
    ∃ t, exec .ret s = .next t ∧ t.stack = below ∧ t.pc = a + 2 ∧ FrameOutside { stack := true } s t

/-- R104: `1NNN` sets pc to NNN, odd targets too, and changes nothing else. -/
def Obligations.JumpSetsPc : Prop :=
  ∀ (s : State) (nnn : Addr), ∃ t, exec (.jpNnn nnn) s = .next t ∧ t.pc.toNat = nnn.toNat ∧ FrameOutside {} s t

/-- `2NNN` pushes its own address and jumps; on a full finite stack it faults and only there (R105, R148; decisions D7, D20, log
16, 4). -/
def Obligations.CallPushesItsOwnAddress : Prop :=
  ∀ (s : State) (nnn : Addr),
    (s.config.stackDepth ≠ some s.stack.length →
      ∃ t, exec (.callNnn nnn) s = .next t ∧ t.stack = s.stack ++ [s.pc] ∧ t.pc.toNat = nnn.toNat ∧
        FrameOutside { stack := true } s t) ∧
    (s.config.stackDepth = some s.stack.length → exec (.callNnn nnn) s = .fault (.stackOverflow s.pc))

/-- A return from the state a call left, or from any state with that stack, resumes at the instruction after the call with the
stack as before it (R103, R105; decision D7, log 16). -/
def Obligations.CallThenReturnResumes : Prop :=
  ∀ (s t u : State) (nnn : Addr), exec (.callNnn nnn) s = .next t → u.stack = t.stack →
    ∃ v, exec .ret u = .next v ∧ v.pc = s.pc + 2 ∧ v.stack = s.stack

/-- `BNNN` jumps to NNN + V0 in legacy mode and to NNN + VX, X the top digit of NNN, in quirk mode, without wrap or truncation
(R106; decision D2, log 11). -/
def Obligations.OffsetJumpByMode : Prop :=
  ∀ (s : State) (nnn : Addr), ∃ t, exec (.jpV0Nnn nnn) s = .next t ∧
    (s.config.quirk = false → t.pc.toNat = nnn.toNat + (s.reg 0).toNat) ∧
    (s.config.quirk = true → ∀ x : Reg, x.val = nnn.toNat / 256 → t.pc.toNat = nnn.toNat + (s.reg x).toNat) ∧
    FrameOutside {} s t

/-- R107 to R111: `3XNN`, `4XNN`, `5XY0` and `9XY0` move pc by 4 when their condition holds and by 2 when not, and change nothing
else. -/
def Obligations.SkipsMovePcByFourOrTwo : Prop :=
  ∀ (s : State) (x y : Reg) (nn : Byte),
    (∃ t, exec (.seVxNn x nn) s = .next t ∧ t.pc = (if s.reg x = nn then s.pc + 4 else s.pc + 2) ∧ FrameOutside {} s t) ∧
    (∃ t, exec (.sneVxNn x nn) s = .next t ∧ t.pc = (if s.reg x ≠ nn then s.pc + 4 else s.pc + 2) ∧ FrameOutside {} s t) ∧
    (∃ t, exec (.seVxVy x y) s = .next t ∧ t.pc = (if s.reg x = s.reg y then s.pc + 4 else s.pc + 2) ∧ FrameOutside {} s t) ∧
    (∃ t, exec (.sneVxVy x y) s = .next t ∧ t.pc = (if s.reg x ≠ s.reg y then s.pc + 4 else s.pc + 2) ∧ FrameOutside {} s t)

/-! ## Registers and ALU (spec/43_alu.md) -/

/-- R115, R117: `6XNN` loads NN, `8XY0` copies VY; VX is the only register written. -/
def Obligations.LoadAndCopyWriteOnlyVX : Prop :=
  ∀ (s : State) (x y : Reg) (nn : Byte),
    (∃ t, exec (.ldVxNn x nn) s = .next t ∧ t.reg x = nn ∧ t.pc = s.pc + 2 ∧ FrameOutside { regs := [x] } s t) ∧
    (∃ t, exec (.ldVxVy x y) s = .next t ∧ t.reg x = s.reg y ∧ t.pc = s.pc + 2 ∧ FrameOutside { regs := [x] } s t)

/-- R116: `7XNN` adds and saturates at 255, and writes no flag. -/
def Obligations.AddImmediateSaturates : Prop :=
  ∀ (s : State) (x : Reg) (nn : Byte), ∃ t, exec (.addVxNn x nn) s = .next t ∧
    (t.reg x).toNat = min ((s.reg x).toNat + nn.toNat) 255 ∧ t.pc = s.pc + 2 ∧ FrameOutside { regs := [x] } s t

/-- `8XY1`, `8XY2`, `8XY3` combine VX and VY bit by bit and write no other register, VF included (R118 to R120; that VF is not
reset is decision D27, log 13). -/
def Obligations.LogicOperationsAreBitwise : Prop :=
  ∀ (s : State) (x y : Reg),
    (∃ t, exec (.orVxVy x y) s = .next t ∧
      (∀ k, (t.reg x).getLsbD k = ((s.reg x).getLsbD k || (s.reg y).getLsbD k)) ∧ t.pc = s.pc + 2 ∧
      FrameOutside { regs := [x] } s t) ∧
    (∃ t, exec (.andVxVy x y) s = .next t ∧
      (∀ k, (t.reg x).getLsbD k = ((s.reg x).getLsbD k && (s.reg y).getLsbD k)) ∧ t.pc = s.pc + 2 ∧
      FrameOutside { regs := [x] } s t) ∧
    (∃ t, exec (.xorVxVy x y) s = .next t ∧
      (∀ k, (t.reg x).getLsbD k = ((s.reg x).getLsbD k ^^ (s.reg y).getLsbD k)) ∧ t.pc = s.pc + 2 ∧
      FrameOutside { regs := [x] } s t)

/-- `8XY4`: VX becomes the sum saturated at 255 and VF is 1 exactly when the true sum exceeds 255; the operands are the values
before the instruction (R80), and with X = 15 the flag stays and the sum is lost (R114, R121; decision D4, log 12). -/
def Obligations.AddRegistersSaturatesWithFlag : Prop :=
  ∀ (s : State) (x y : Reg), ∃ t, exec (.addVxVy x y) s = .next t ∧
    (x ≠ 15 → (t.reg x).toNat = min ((s.reg x).toNat + (s.reg y).toNat) 255) ∧
    (t.reg 15).toNat = (if (s.reg x).toNat + (s.reg y).toNat > 255 then 1 else 0) ∧
    t.pc = s.pc + 2 ∧ FrameOutside { regs := [x, 15] } s t

/-- `8XY5` is VX - VY and `8XY7` is VY - VX, clamped at 0; VF is 1 exactly when the difference is strictly positive; with X = 15
the flag stays and the difference is lost (R114, R122, R124; decision D4, log 12). -/
def Obligations.SubtractionsClampWithStrictFlag : Prop :=
  ∀ (s : State) (x y : Reg),
    (∃ t, exec (.subVxVy x y) s = .next t ∧
      (x ≠ 15 → (t.reg x).toNat = (if (s.reg x).toNat > (s.reg y).toNat then (s.reg x).toNat - (s.reg y).toNat else 0)) ∧
      (t.reg 15).toNat = (if (s.reg x).toNat > (s.reg y).toNat then 1 else 0) ∧
      t.pc = s.pc + 2 ∧ FrameOutside { regs := [x, 15] } s t) ∧
    (∃ t, exec (.subnVxVy x y) s = .next t ∧
      (x ≠ 15 → (t.reg x).toNat = (if (s.reg y).toNat > (s.reg x).toNat then (s.reg y).toNat - (s.reg x).toNat else 0)) ∧
      (t.reg 15).toNat = (if (s.reg y).toNat > (s.reg x).toNat then 1 else 0) ∧
      t.pc = s.pc + 2 ∧ FrameOutside { regs := [x, 15] } s t)

/-- The shifts: the source is VY in quirk mode and VX in legacy mode; `8XY6` halves it and VF is its bit 0; `8XYE` doubles it modulo
256 and VF is its bit 7; with X = 15 the flag stays and the result is lost (R114, R123, R125; decisions D2 to D5, log 11, 12,
14). -/
def Obligations.ShiftsMoveOneBitIntoVF : Prop :=
  ∀ (s : State) (x y : Reg) (v : Byte), v = (if s.config.quirk = true then s.reg y else s.reg x) →
    (∃ t, exec (.shrVxVy x y) s = .next t ∧ (x ≠ 15 → (t.reg x).toNat = v.toNat / 2) ∧ (t.reg 15).toNat = v.toNat % 2 ∧
      t.pc = s.pc + 2 ∧ FrameOutside { regs := [x, 15] } s t) ∧
    (∃ t, exec (.shlVxVy x y) s = .next t ∧ (x ≠ 15 → (t.reg x).toNat = v.toNat * 2 % 256) ∧
      (t.reg 15).toNat = v.toNat / 128 ∧ t.pc = s.pc + 2 ∧ FrameOutside { regs := [x, 15] } s t)

/-- `CXNN` writes the step's random byte AND NN, whatever that byte is: the host's where it supplies one, and no bit outside NN is
ever set (R126; decision D12, log 1). -/
def Obligations.RandomByteIsMasked : Prop :=
  ∀ (s : State) (x : Reg) (nn : Byte), ∃ t, exec (.rndVxNn x nn) s = .next t ∧ t.reg x = s.stepInput.rand &&& nn ∧
    t.reg x &&& ~~~nn = 0 ∧ (∀ inp later, s.inputs = inp :: later → t.reg x = inp.rand &&& nn) ∧
    t.pc = s.pc + 2 ∧ FrameOutside { regs := [x] } s t

/-! ## Index register and memory (spec/44_index_memory.md) -/

/-- R127, R129: `ANNN` sets I to NNN; `FX29` sets I to five times the low digit of VX. -/
def Obligations.IndexLoads : Prop :=
  ∀ (s : State) (x : Reg) (nnn : Addr),
    (∃ t, exec (.ldINnn nnn) s = .next t ∧ t.I.toNat = nnn.toNat ∧ t.pc = s.pc + 2 ∧ FrameOutside { index := true } s t) ∧
    (∃ t, exec (.ldFVx x) s = .next t ∧ t.I.toNat = (s.reg x).toNat % 16 * 5 ∧ t.pc = s.pc + 2 ∧
      FrameOutside { index := true } s t)

/-- `FX1E` adds VX to I and saturates at 0xFFFF, with no flag and no fault (R128; decision D6, log 15). -/
def Obligations.IndexAddSaturates : Prop :=
  ∀ (s : State) (x : Reg), ∃ t, exec (.addIVx x) s = .next t ∧
    t.I.toNat = min (s.I.toNat + (s.reg x).toNat) 65535 ∧ t.pc = s.pc + 2 ∧ FrameOutside { index := true } s t

/-- R130: `FX33` with its three addresses in memory stores the hundreds, tens and units of VX at I, I+1, I+2 and nothing else;
otherwise it raises MemoryBoundsFault with the first bad address. -/
def Obligations.BcdStoresThreeDigits : Prop :=
  ∀ (s : State) (x : Reg),
    (s.I.toNat + 2 < 4096 → ∃ t h d u, exec (.ldBVx x) s = .next t ∧
      (t.readByte s.I.toNat).toNat = h ∧ (t.readByte (s.I.toNat + 1)).toNat = d ∧ (t.readByte (s.I.toNat + 2)).toNat = u ∧
      h ≤ 2 ∧ d ≤ 9 ∧ u ≤ 9 ∧ h * 100 + d * 10 + u = (s.reg x).toNat ∧
      t.pc = s.pc + 2 ∧ FrameOutside { base := s.I.toNat, count := 3 } s t) ∧
    (4096 ≤ s.I.toNat + 2 → ∃ k, k < 3 ∧ exec (.ldBVx x) s = .fault (.memoryBounds s.pc (s.I.toNat + k)) ∧
      4096 ≤ s.I.toNat + k ∧ ∀ j, j < k → s.I.toNat + j < 4096)

/-- `FX55` with its addresses in memory stores V0..VX from I on and nothing else; I moves by X + 1 in legacy mode and stays in quirk
mode; otherwise it faults before any write (R131; decisions D2, D6, D9, log 11, 15, 17). -/
def Obligations.StoreBlockWritesRegisters : Prop :=
  ∀ (s : State) (x : Reg),
    (s.I.toNat + x.val < 4096 → ∃ t, exec (.ldMemVx x) s = .next t ∧
      (∀ k : Reg, k.val ≤ x.val → t.readByte (s.I.toNat + k.val) = s.reg k) ∧
      t.I.toNat = (if s.config.quirk = true then s.I.toNat else s.I.toNat + x.val + 1) ∧
      t.pc = s.pc + 2 ∧ FrameOutside { index := true, base := s.I.toNat, count := x.val + 1 } s t) ∧
    (4096 ≤ s.I.toNat + x.val → ∃ a, exec (.ldMemVx x) s = .fault (.memoryBounds s.pc a))

/-- `FX65` with its addresses in memory loads V0..VX from I on and no other register; I as for `FX55`; otherwise it faults before any
register changes (R132; decisions D2, D6, D9, log 11, 15, 17). -/
def Obligations.LoadBlockReadsMemory : Prop :=
  ∀ (s : State) (x : Reg),
    (s.I.toNat + x.val < 4096 → ∃ t, exec (.ldVxMem x) s = .next t ∧
      (∀ k : Reg, k.val ≤ x.val → t.reg k = s.readByte (s.I.toNat + k.val)) ∧
      t.I.toNat = (if s.config.quirk = true then s.I.toNat else s.I.toNat + x.val + 1) ∧
      t.pc = s.pc + 2 ∧ FrameOutside { regs := regsTo x, index := true } s t) ∧
    (4096 ≤ s.I.toNat + x.val → ∃ a, exec (.ldVxMem x) s = .fault (.memoryBounds s.pc a))

/-- Loading what was stored gives the registers back: after `FX55`, any later state with the same memory and font and I where the
store began loads V0..VX as they were ("Inverse of FX55", R132). -/
def Obligations.LoadIsInverseOfStore : Prop :=
  ∀ (s t u : State) (x : Reg), exec (.ldMemVx x) s = .next t → u.mem = t.mem → u.config = t.config → u.I = s.I →
    ∃ v, exec (.ldVxMem x) u = .next v ∧ ∀ k : Reg, k.val ≤ x.val → v.reg k = s.reg k

/-- A store is seen by a later fetch of its bytes: after a completed instruction, in any state whose two bytes at pc are as that
instruction left them, the fetch gives the word of `byteAfter`, the bytes `FX33` or `FX55` stored there, at every offset, one byte
of the two or both, and the bytes from before where it stored none (R62, which the spec derives; R51, R57). -/
def Obligations.FetchSeesTheStore : Prop :=
  ∀ (i : Instr) (s t u : State), exec i s = .next t → u.pc.toNat + 1 < 4096 →
    u.readByte u.pc.toNat = t.readByte u.pc.toNat → u.readByte (u.pc.toNat + 1) = t.readByte (u.pc.toNat + 1) →
    u.fetch = .ok (BitVec.ofNat 16 ((byteAfter i s u.pc.toNat).toNat * 256 + (byteAfter i s (u.pc.toNat + 1)).toNat))

/-- Two memories in canonical form that read the same at every address are the same data (the model's convention, log 5). -/
def Obligations.EqualMemoriesAreEqualData : Prop :=
  ∀ (font : Font) (m m' : Memory), Memory.wf font m → Memory.wf font m' →
    (∀ a, Memory.read font m a = Memory.read font m' a) → m = m'

/-! ## Keys and timers (spec/45_input_timers.md) -/

/-- `EX9E` skips exactly when a key is pending and equals VX, `EXA1` exactly when a key is pending and differs from VX; with none
pending neither skips (R134, R135; decision D15, log 19). -/
def Obligations.KeySkipsNeedAPendingKey : Prop :=
  ∀ (s : State) (x : Reg),
    (∃ t, exec (.skpVx x) s = .next t ∧ FrameOutside {} s t ∧
      ((∃ k : Nibble, s.keyPending = true ∧ s.key = some k ∧ k.val = (s.reg x).toNat) → t.pc = s.pc + 4) ∧
      ((¬ ∃ k : Nibble, s.keyPending = true ∧ s.key = some k ∧ k.val = (s.reg x).toNat) → t.pc = s.pc + 2)) ∧
    (∃ t, exec (.sknpVx x) s = .next t ∧ FrameOutside {} s t ∧
      ((∃ k : Nibble, s.keyPending = true ∧ s.key = some k ∧ k.val ≠ (s.reg x).toNat) → t.pc = s.pc + 4) ∧
      ((¬ ∃ k : Nibble, s.keyPending = true ∧ s.key = some k ∧ k.val ≠ (s.reg x).toNat) → t.pc = s.pc + 2))

/-- R136: `FX0A` with a key pending writes it to VX, consumes the flag and advances; with none pending it completes with pc on
itself and nothing changed. -/
def Obligations.KeyWaitTakesTheKeyOrRetries : Prop :=
  ∀ (s : State) (x : Reg),
    (∀ k : Nibble, s.keyPending = true → s.key = some k → ∃ t, exec (.ldVxK x) s = .next t ∧
      (t.reg x).toNat = k.val ∧ t.keyPending = false ∧ t.pc = s.pc + 2 ∧ FrameOutside { regs := [x], pending := true } s t) ∧
    (s.keyPending = false → ∃ t, exec (.ldVxK x) s = .next t ∧ t.pc = s.pc ∧ FrameOutside {} s t)

/-- A pending flag without a key, which no run reaches (R33), counts as no key: `FX0A` waits (the model's choice, log 7). -/
def Obligations.PendingFlagWithoutKeyWaits : Prop :=
  ∀ (s : State) (x : Reg), s.keyPending = true → s.key = none →
    ∃ t, exec (.ldVxK x) s = .next t ∧ t.pc = s.pc ∧ FrameOutside {} s t

/-- R137, R138, R139: `FX07` reads DT before the tick, `FX15` and `FX18` write DT and ST before it. -/
def Obligations.TimerInstructionsReadAndWrite : Prop :=
  (∀ (s : State) (x : Reg),
    (∃ t, exec (.ldVxDt x) s = .next t ∧ t.reg x = s.DT ∧ t.pc = s.pc + 2 ∧ FrameOutside { regs := [x] } s t) ∧
    (∃ t, exec (.ldDtVx x) s = .next t ∧ t.DT = s.reg x ∧ t.pc = s.pc + 2 ∧ FrameOutside { delay := true } s t) ∧
    (∃ t, exec (.ldStVx x) s = .next t ∧ t.ST = s.reg x ∧ t.pc = s.pc + 2 ∧ FrameOutside { sound := true } s t)) ∧
  (∀ (s : State) (x : Reg), Runs s →
    (decodeWord (wordAtPc s) = .ldVxDt x → ∃ t, step s = .next t ∧ t.reg x = s.DT ∧
      t.DT.toNat = s.DT.toNat - s.stepInput.ticks) ∧
    (decodeWord (wordAtPc s) = .ldDtVx x → ∃ t, step s = .next t ∧ t.DT.toNat = (s.reg x).toNat - s.stepInput.ticks) ∧
    (decodeWord (wordAtPc s) = .ldStVx x → ∃ t, step s = .next t ∧ t.ST.toNat = (s.reg x).toNat - s.stepInput.ticks))

/-! ## Construction, reset and the host (spec/70_reset_and_hazards.md, spec/40_execution_cycle.md) -/

/-- A constructed block, for every configuration and time: registers, I, stack and timers zero, pc 512, every pixel off, no key, not
paused, the glyphs at 5d..5d+4 and zeros elsewhere; `State.reset` is that block with the default configuration at time 0 (R46,
R160; decisions D17 to D19; log 2, 3, 4, 8, 10). -/
def Obligations.ConstructionGivesTheResetState : Prop :=
  State.reset = State.construct Config.default 0 ∧
  ∀ (config : Config) (now : Time) (s : State), s = State.construct config now →
    (∀ x, s.reg x = 0) ∧ s.I = 0 ∧ s.pc = 512 ∧ s.stack = [] ∧ s.DT = 0 ∧ s.ST = 0 ∧
    (∀ r c, r < 32 → c < 64 → s.FB.get r c = false) ∧ s.key = none ∧ s.keyPending = false ∧ s.paused = false ∧
    s.lastTick = now ∧ s.config = config ∧
    (∀ (d k : Nat) (hd : d < 16) (hk : k < 5), s.readByte (5 * d + k) = config.font[d][k]) ∧
    (∀ a, 80 ≤ a → s.readByte a = 0)

/-- `reset(program)`: the program's bytes from 512 on, the font and zeros elsewhere, registers, I, stack and timers zero, pc 512, the
reference at the time of reset; framebuffer, latch, pause and configuration as before; an image over 3584 bytes is refused with
no change (R161, R37 to R45; decisions D17 to D19, log 21). -/
def Obligations.ResetLoadsTheProgram : Prop :=
  ∀ (s : State) (program : List Byte) (now : Time),
    (program.length ≤ 3584 → ∃ t, s.resetProgram program now = .next t ∧
      (∀ x, t.reg x = 0) ∧ t.I = 0 ∧ t.pc = 512 ∧ t.stack = [] ∧ t.DT = 0 ∧ t.ST = 0 ∧ t.lastTick = now ∧
      t.FB = s.FB ∧ t.key = s.key ∧ t.keyPending = s.keyPending ∧ t.paused = s.paused ∧ t.config = s.config ∧
      (∀ (d k : Nat) (hd : d < 16) (hk : k < 5), t.readByte (5 * d + k) = s.config.font[d][k]) ∧
      (∀ (j : Nat) (hj : j < program.length), t.readByte (512 + j) = program[j]) ∧
      (∀ a, 80 ≤ a → (a < 512 ∨ 512 + program.length ≤ a) → t.readByte a = 0)) ∧
    (3584 < program.length →
      runTransaction (.reset program now) s = (s, .refused (.programTooLong program.length)))

/-- The latch and pause transactions: setKey latches the key and the flag, clearKey drops both, togglePause flips `paused`; nothing
else changes, registers, memory, pc and timers included (R89, R90, R91; decisions D14, D16, log 20, 22). -/
def Obligations.LatchAndPauseTransactions : Prop :=
  ∀ (s : State) (k : Nibble),
    (∃ t, runTransaction (.setKey k) s = (t, .ok) ∧ t.key = some k ∧ t.keyPending = true ∧
      { t with key := s.key, keyPending := s.keyPending } = s) ∧
    (∃ t, runTransaction .clearKey s = (t, .ok) ∧ t.key = none ∧ t.keyPending = false ∧
      { t with key := s.key, keyPending := s.keyPending } = s) ∧
    (∃ t, runTransaction .togglePause s = (t, .ok) ∧ t.paused = !s.paused ∧ { t with paused := s.paused } = s)

/-- The word placed for the next step is the one it fetches: in every state, the block then runs, and its step is that of the
instruction the word was made from (the model's convention, log 9). -/
def Obligations.PlacedInstructionRunsNext : Prop :=
  ∀ (s p : State) (i : Instr), i.wellFormed = true → p = s.withFetchWord 16 (encode i).toNat →
    Runs p ∧ wordAtPc p = encode i ∧
    (∀ t, exec i p = .next t → step p = .next t.endStep) ∧ (∀ f, exec i p = .fault f → step p = .fault f) ∧
    (∀ x, p.reg x = s.reg x) ∧ p.I = s.I ∧ p.stack = s.stack ∧ p.FB = s.FB ∧ p.DT = s.DT ∧ p.ST = s.ST ∧
    p.key = s.key ∧ p.keyPending = s.keyPending ∧ p.config = s.config ∧ p.inputs = s.inputs
end

