-- ==== Sys2Proof/Laws/Decode.lean ====
section
/-! SUPPORT. The fields of encoded words, and matching a row of the opcode table nibble by nibble. -/

namespace Sys2Proof

theorem nibble0_lt (w : Word) : nibble0 w < 16 := Nat.mod_lt _ (by decide)
theorem nibble1_lt (w : Word) : nibble1 w < 16 := Nat.mod_lt _ (by decide)
theorem nibble2_lt (w : Word) : nibble2 w < 16 := Nat.mod_lt _ (by decide)
theorem nibble3_lt (w : Word) : nibble3 w < 16 := Nat.mod_lt _ (by decide)

/-- A word is its four nibbles, most significant first (spec/30_encoding.md R64). -/
theorem toNat_eq_nibbles (w : Word) :
    w.toNat = nibble0 w * 4096 + nibble1 w * 256 + nibble2 w * 16 + nibble3 w := by
  have := w.isLt
  simp only [nibble0, nibble1, nibble2, nibble3, bitField]
  omega

theorem lowByte_eq_nibbles (w : Word) : bitField w 7 0 = nibble2 w * 16 + nibble3 w := by
  simp only [nibble2, nibble3, bitField]; omega

theorem nnn_eq_nibbles (w : Word) : bitField w 11 0 = nibble1 w * 256 + nibble2 w * 16 + nibble3 w := by
  simp only [nibble1, nibble2, nibble3, bitField]; omega

/-- Two words with the same nibbles are equal. -/
theorem word_ext_nibbles {w w' : Word} (h0 : nibble0 w = nibble0 w') (h1 : nibble1 w = nibble1 w')
    (h2 : nibble2 w = nibble2 w') (h3 : nibble3 w = nibble3 w') : w = w' := by
  apply BitVec.eq_of_toNat_eq
  rw [toNat_eq_nibbles w, toNat_eq_nibbles w', h0, h1, h2, h3]

theorem encodeNNN_toNat (h : Nat) (nnn : Addr) (hh : h < 16) : (encodeNNN h nnn).toNat = h * 4096 + nnn.toNat := by
  have := nnn.isLt
  simp only [encodeNNN, BitVec.toNat_ofNat]; omega

theorem encodeXNN_toNat (h : Nat) (x : Reg) (nn : Byte) (hh : h < 16) :
    (encodeXNN h x nn).toNat = h * 4096 + x.val * 256 + nn.toNat := by
  have := nn.isLt
  have := x.isLt
  simp only [encodeXNN, BitVec.toNat_ofNat]; omega

theorem encodeXYN_toNat (h : Nat) (x y : Reg) (n : Nat) (hh : h < 16) (hn : n < 16) :
    (encodeXYN h x y n).toNat = h * 4096 + x.val * 256 + y.val * 16 + n := by
  have := x.isLt
  have := y.isLt
  simp only [encodeXYN, BitVec.toNat_ofNat]; omega

theorem encodeX_toNat (h : Nat) (x : Reg) (nn : Nat) (hh : h < 16) (hn : nn < 256) :
    (encodeX h x nn).toNat = h * 4096 + x.val * 256 + nn := by
  have := x.isLt
  simp only [encodeX, BitVec.toNat_ofNat]; omega

/-- The fields of a word of pattern `hNNN`. -/
theorem fields_encodeNNN (h : Nat) (nnn : Addr) (hh : h < 16) :
    nibble0 (encodeNNN h nnn) = h ∧ fieldNNN (encodeNNN h nnn) = nnn := by
  have := nnn.isLt
  constructor
  · simp only [nibble0, bitField, encodeNNN_toNat h nnn hh]; omega
  · apply BitVec.eq_of_toNat_eq
    simp only [fieldNNN, bitField, encodeNNN_toNat h nnn hh, BitVec.toNat_ofNat]; omega

/-- The fields of a word of pattern `hXNN`. -/
theorem fields_encodeXNN (h : Nat) (x : Reg) (nn : Byte) (hh : h < 16) :
    nibble0 (encodeXNN h x nn) = h ∧ fieldX (encodeXNN h x nn) = x ∧ fieldNN (encodeXNN h x nn) = nn := by
  have := nn.isLt
  have := x.isLt
  refine ⟨?_, ?_, ?_⟩
  · simp only [nibble0, bitField, encodeXNN_toNat h x nn hh]; omega
  · apply Fin.ext
    simp only [fieldX, nibble1, bitField, encodeXNN_toNat h x nn hh, Fin.ofNat]; omega
  · apply BitVec.eq_of_toNat_eq
    simp only [fieldNN, bitField, encodeXNN_toNat h x nn hh, BitVec.toNat_ofNat]; omega

/-- The fields of a word of pattern `hXYn`. -/
theorem fields_encodeXYN (h : Nat) (x y : Reg) (n : Nat) (hh : h < 16) (hn : n < 16) :
    nibble0 (encodeXYN h x y n) = h ∧ fieldX (encodeXYN h x y n) = x ∧ fieldY (encodeXYN h x y n) = y ∧
      nibble3 (encodeXYN h x y n) = n := by
  have := x.isLt
  have := y.isLt
  refine ⟨?_, ?_, ?_, ?_⟩
  · simp only [nibble0, bitField, encodeXYN_toNat h x y n hh hn]; omega
  · apply Fin.ext
    simp only [fieldX, nibble1, bitField, encodeXYN_toNat h x y n hh hn, Fin.ofNat]; omega
  · apply Fin.ext
    simp only [fieldY, nibble2, bitField, encodeXYN_toNat h x y n hh hn, Fin.ofNat]; omega
  · simp only [nibble3, bitField, encodeXYN_toNat h x y n hh hn]; omega

/-- The fields of a word of pattern `hXnn` with a fixed low byte. -/
theorem fields_encodeX (h : Nat) (x : Reg) (nn : Nat) (hh : h < 16) (hn : nn < 256) :
    nibble0 (encodeX h x nn) = h ∧ fieldX (encodeX h x nn) = x ∧ bitField (encodeX h x nn) 7 0 = nn := by
  have := x.isLt
  refine ⟨?_, ?_, ?_⟩
  · simp only [nibble0, bitField, encodeX_toNat h x nn hh hn]; omega
  · apply Fin.ext
    simp only [fieldX, nibble1, bitField, encodeX_toNat h x nn hh hn, Fin.ofNat]; omega
  · simp only [bitField, encodeX_toNat h x nn hh hn]; omega

/-! A word put together again from its own fields, pattern by pattern. -/

theorem encodeNNN_fields (w : Word) (h : Nat) (h0 : nibble0 w = h) : encodeNNN h (fieldNNN w) = w := by
  have := w.isLt
  subst h0
  apply BitVec.eq_of_toNat_eq
  simp only [encodeNNN, fieldNNN, nibble0, bitField, BitVec.toNat_ofNat]; omega

theorem encodeXNN_fields (w : Word) (h : Nat) (h0 : nibble0 w = h) : encodeXNN h (fieldX w) (fieldNN w) = w := by
  have := w.isLt
  subst h0
  apply BitVec.eq_of_toNat_eq
  simp only [encodeXNN, fieldX, fieldNN, nibble0, nibble1, bitField, BitVec.toNat_ofNat, Fin.ofNat]; omega

theorem encodeXYN_fields (w : Word) (h n : Nat) (h0 : nibble0 w = h) (h3 : nibble3 w = n) :
    encodeXYN h (fieldX w) (fieldY w) n = w := by
  have := w.isLt
  subst h0; subst h3
  apply BitVec.eq_of_toNat_eq
  simp only [encodeXYN, fieldX, fieldY, nibble0, nibble1, nibble2, nibble3, bitField, BitVec.toNat_ofNat, Fin.ofNat]; omega

theorem encodeX_fields (w : Word) (h n : Nat) (h0 : nibble0 w = h) (h3 : bitField w 7 0 = n) : encodeX h (fieldX w) n = w := by
  have := w.isLt
  subst h0; subst h3
  apply BitVec.eq_of_toNat_eq
  simp only [encodeX, fieldX, nibble0, nibble1, bitField, BitVec.toNat_ofNat, Fin.ofNat]; omega

/-- N as a number is nibble 3. -/
theorem fieldN_val (w : Word) : (fieldN w).val = nibble3 w := by
  have := nibble3_lt w
  unfold fieldN
  rw [Fin.val_ofNat]
  exact Nat.mod_eq_of_lt this

/-- The word of the two bytes it is stored as (spec/20_memory.md R51). -/
theorem wordOfBytes_bytes (w : Word) : wordOfBytes (highByte w) (lowByte w) = w := by
  have := w.isLt
  apply BitVec.eq_of_toNat_eq
  simp only [wordOfBytes, highByte, lowByte, bitField, BitVec.toNat_ofNat]; omega

/-- Masking a word masks each field. -/
theorem bitField_and (w m : Word) (hi lo : Nat) : bitField (w &&& m) hi lo = bitField w hi lo &&& bitField m hi lo := by
  simp only [bitField, BitVec.toNat_and, Nat.and_div_two_pow, Nat.and_mod_two_pow]

/-- A word matches a row exactly when each of its nibbles does (spec/30_encoding.md R70). -/
theorem matches_iff_nibbles (r : OpcodeRow) (w : Word) : r.Matches w ↔
    nibble0 w &&& nibble0 r.mask = nibble0 r.value ∧ nibble1 w &&& nibble1 r.mask = nibble1 r.value ∧
    nibble2 w &&& nibble2 r.mask = nibble2 r.value ∧ nibble3 w &&& nibble3 r.mask = nibble3 r.value := by
  simp only [OpcodeRow.Matches, nibble0, nibble1, nibble2, nibble3, ← bitField_and]
  constructor
  · intro h; simp [h]
  · rintro ⟨h0, h1, h2, h3⟩; exact word_ext_nibbles h0 h1 h2 h3

/-- A nibble under a mask of ones is itself. -/
theorem nibble_and_15 {n : Nat} (h : n < 16) : n &&& 15 = n := by
  have : n &&& (2 ^ 4 - 1) = n % 2 ^ 4 := Nat.and_two_pow_sub_one_eq_mod n 4
  simpa [Nat.mod_eq_of_lt h] using this

end Sys2Proof
end

