-- ==== Sys2Proof/Laws/State.lean ====
section
/-! SUPPORT. One lemma per field and update of State, true by rfl, so that no proof unfolds a record update; and what one
register reads after another is written. -/

namespace Sys2Proof.Machine

@[simp] theorem State.setReg_mem (s : State) (x : Reg) (b : Byte) : (s.setReg x b).mem = s.mem := rfl
@[simp] theorem State.setReg_V (s : State) (x : Reg) (b : Byte) : (s.setReg x b).V = s.V.set x b := rfl
@[simp] theorem State.setReg_I (s : State) (x : Reg) (b : Byte) : (s.setReg x b).I = s.I := rfl
@[simp] theorem State.setReg_pc (s : State) (x : Reg) (b : Byte) : (s.setReg x b).pc = s.pc := rfl
@[simp] theorem State.setReg_stack (s : State) (x : Reg) (b : Byte) : (s.setReg x b).stack = s.stack := rfl
@[simp] theorem State.setReg_FB (s : State) (x : Reg) (b : Byte) : (s.setReg x b).FB = s.FB := rfl
@[simp] theorem State.setReg_DT (s : State) (x : Reg) (b : Byte) : (s.setReg x b).DT = s.DT := rfl
@[simp] theorem State.setReg_ST (s : State) (x : Reg) (b : Byte) : (s.setReg x b).ST = s.ST := rfl
@[simp] theorem State.setReg_key (s : State) (x : Reg) (b : Byte) : (s.setReg x b).key = s.key := rfl
@[simp] theorem State.setReg_keyPending (s : State) (x : Reg) (b : Byte) : (s.setReg x b).keyPending = s.keyPending := rfl
@[simp] theorem State.setReg_paused (s : State) (x : Reg) (b : Byte) : (s.setReg x b).paused = s.paused := rfl
@[simp] theorem State.setReg_lastTick (s : State) (x : Reg) (b : Byte) : (s.setReg x b).lastTick = s.lastTick := rfl
@[simp] theorem State.setReg_config (s : State) (x : Reg) (b : Byte) : (s.setReg x b).config = s.config := rfl
@[simp] theorem State.setReg_inputs (s : State) (x : Reg) (b : Byte) : (s.setReg x b).inputs = s.inputs := rfl
@[simp] theorem State.setReg_draws (s : State) (x : Reg) (b : Byte) : (s.setReg x b).draws = s.draws := rfl

@[simp] theorem State.setI_mem (s : State) (w : Word) : (s.setI w).mem = s.mem := rfl
@[simp] theorem State.setI_V (s : State) (w : Word) : (s.setI w).V = s.V := rfl
@[simp] theorem State.setI_I (s : State) (w : Word) : (s.setI w).I = w := rfl
@[simp] theorem State.setI_pc (s : State) (w : Word) : (s.setI w).pc = s.pc := rfl
@[simp] theorem State.setI_stack (s : State) (w : Word) : (s.setI w).stack = s.stack := rfl
@[simp] theorem State.setI_FB (s : State) (w : Word) : (s.setI w).FB = s.FB := rfl
@[simp] theorem State.setI_DT (s : State) (w : Word) : (s.setI w).DT = s.DT := rfl
@[simp] theorem State.setI_ST (s : State) (w : Word) : (s.setI w).ST = s.ST := rfl
@[simp] theorem State.setI_key (s : State) (w : Word) : (s.setI w).key = s.key := rfl
@[simp] theorem State.setI_keyPending (s : State) (w : Word) : (s.setI w).keyPending = s.keyPending := rfl
@[simp] theorem State.setI_paused (s : State) (w : Word) : (s.setI w).paused = s.paused := rfl
@[simp] theorem State.setI_lastTick (s : State) (w : Word) : (s.setI w).lastTick = s.lastTick := rfl
@[simp] theorem State.setI_config (s : State) (w : Word) : (s.setI w).config = s.config := rfl
@[simp] theorem State.setI_inputs (s : State) (w : Word) : (s.setI w).inputs = s.inputs := rfl
@[simp] theorem State.setI_draws (s : State) (w : Word) : (s.setI w).draws = s.draws := rfl

@[simp] theorem State.setPc_mem (s : State) (w : Word) : (s.setPc w).mem = s.mem := rfl
@[simp] theorem State.setPc_V (s : State) (w : Word) : (s.setPc w).V = s.V := rfl
@[simp] theorem State.setPc_I (s : State) (w : Word) : (s.setPc w).I = s.I := rfl
@[simp] theorem State.setPc_pc (s : State) (w : Word) : (s.setPc w).pc = w := rfl
@[simp] theorem State.setPc_stack (s : State) (w : Word) : (s.setPc w).stack = s.stack := rfl
@[simp] theorem State.setPc_FB (s : State) (w : Word) : (s.setPc w).FB = s.FB := rfl
@[simp] theorem State.setPc_DT (s : State) (w : Word) : (s.setPc w).DT = s.DT := rfl
@[simp] theorem State.setPc_ST (s : State) (w : Word) : (s.setPc w).ST = s.ST := rfl
@[simp] theorem State.setPc_key (s : State) (w : Word) : (s.setPc w).key = s.key := rfl
@[simp] theorem State.setPc_keyPending (s : State) (w : Word) : (s.setPc w).keyPending = s.keyPending := rfl
@[simp] theorem State.setPc_paused (s : State) (w : Word) : (s.setPc w).paused = s.paused := rfl
@[simp] theorem State.setPc_lastTick (s : State) (w : Word) : (s.setPc w).lastTick = s.lastTick := rfl
@[simp] theorem State.setPc_config (s : State) (w : Word) : (s.setPc w).config = s.config := rfl
@[simp] theorem State.setPc_inputs (s : State) (w : Word) : (s.setPc w).inputs = s.inputs := rfl
@[simp] theorem State.setPc_draws (s : State) (w : Word) : (s.setPc w).draws = s.draws := rfl

@[simp] theorem State.setDT_mem (s : State) (b : Byte) : (s.setDT b).mem = s.mem := rfl
@[simp] theorem State.setDT_V (s : State) (b : Byte) : (s.setDT b).V = s.V := rfl
@[simp] theorem State.setDT_I (s : State) (b : Byte) : (s.setDT b).I = s.I := rfl
@[simp] theorem State.setDT_pc (s : State) (b : Byte) : (s.setDT b).pc = s.pc := rfl
@[simp] theorem State.setDT_stack (s : State) (b : Byte) : (s.setDT b).stack = s.stack := rfl
@[simp] theorem State.setDT_FB (s : State) (b : Byte) : (s.setDT b).FB = s.FB := rfl
@[simp] theorem State.setDT_DT (s : State) (b : Byte) : (s.setDT b).DT = b := rfl
@[simp] theorem State.setDT_ST (s : State) (b : Byte) : (s.setDT b).ST = s.ST := rfl
@[simp] theorem State.setDT_key (s : State) (b : Byte) : (s.setDT b).key = s.key := rfl
@[simp] theorem State.setDT_keyPending (s : State) (b : Byte) : (s.setDT b).keyPending = s.keyPending := rfl
@[simp] theorem State.setDT_paused (s : State) (b : Byte) : (s.setDT b).paused = s.paused := rfl
@[simp] theorem State.setDT_lastTick (s : State) (b : Byte) : (s.setDT b).lastTick = s.lastTick := rfl
@[simp] theorem State.setDT_config (s : State) (b : Byte) : (s.setDT b).config = s.config := rfl
@[simp] theorem State.setDT_inputs (s : State) (b : Byte) : (s.setDT b).inputs = s.inputs := rfl
@[simp] theorem State.setDT_draws (s : State) (b : Byte) : (s.setDT b).draws = s.draws := rfl

@[simp] theorem State.setST_mem (s : State) (b : Byte) : (s.setST b).mem = s.mem := rfl
@[simp] theorem State.setST_V (s : State) (b : Byte) : (s.setST b).V = s.V := rfl
@[simp] theorem State.setST_I (s : State) (b : Byte) : (s.setST b).I = s.I := rfl
@[simp] theorem State.setST_pc (s : State) (b : Byte) : (s.setST b).pc = s.pc := rfl
@[simp] theorem State.setST_stack (s : State) (b : Byte) : (s.setST b).stack = s.stack := rfl
@[simp] theorem State.setST_FB (s : State) (b : Byte) : (s.setST b).FB = s.FB := rfl
@[simp] theorem State.setST_DT (s : State) (b : Byte) : (s.setST b).DT = s.DT := rfl
@[simp] theorem State.setST_ST (s : State) (b : Byte) : (s.setST b).ST = b := rfl
@[simp] theorem State.setST_key (s : State) (b : Byte) : (s.setST b).key = s.key := rfl
@[simp] theorem State.setST_keyPending (s : State) (b : Byte) : (s.setST b).keyPending = s.keyPending := rfl
@[simp] theorem State.setST_paused (s : State) (b : Byte) : (s.setST b).paused = s.paused := rfl
@[simp] theorem State.setST_lastTick (s : State) (b : Byte) : (s.setST b).lastTick = s.lastTick := rfl
@[simp] theorem State.setST_config (s : State) (b : Byte) : (s.setST b).config = s.config := rfl
@[simp] theorem State.setST_inputs (s : State) (b : Byte) : (s.setST b).inputs = s.inputs := rfl
@[simp] theorem State.setST_draws (s : State) (b : Byte) : (s.setST b).draws = s.draws := rfl

@[simp] theorem State.setKeyPending_mem (s : State) (b : Bool) : (s.setKeyPending b).mem = s.mem := rfl
@[simp] theorem State.setKeyPending_V (s : State) (b : Bool) : (s.setKeyPending b).V = s.V := rfl
@[simp] theorem State.setKeyPending_I (s : State) (b : Bool) : (s.setKeyPending b).I = s.I := rfl
@[simp] theorem State.setKeyPending_pc (s : State) (b : Bool) : (s.setKeyPending b).pc = s.pc := rfl
@[simp] theorem State.setKeyPending_stack (s : State) (b : Bool) : (s.setKeyPending b).stack = s.stack := rfl
@[simp] theorem State.setKeyPending_FB (s : State) (b : Bool) : (s.setKeyPending b).FB = s.FB := rfl
@[simp] theorem State.setKeyPending_DT (s : State) (b : Bool) : (s.setKeyPending b).DT = s.DT := rfl
@[simp] theorem State.setKeyPending_ST (s : State) (b : Bool) : (s.setKeyPending b).ST = s.ST := rfl
@[simp] theorem State.setKeyPending_key (s : State) (b : Bool) : (s.setKeyPending b).key = s.key := rfl
@[simp] theorem State.setKeyPending_keyPending (s : State) (b : Bool) : (s.setKeyPending b).keyPending = b := rfl
@[simp] theorem State.setKeyPending_paused (s : State) (b : Bool) : (s.setKeyPending b).paused = s.paused := rfl
@[simp] theorem State.setKeyPending_lastTick (s : State) (b : Bool) : (s.setKeyPending b).lastTick = s.lastTick := rfl
@[simp] theorem State.setKeyPending_config (s : State) (b : Bool) : (s.setKeyPending b).config = s.config := rfl
@[simp] theorem State.setKeyPending_inputs (s : State) (b : Bool) : (s.setKeyPending b).inputs = s.inputs := rfl
@[simp] theorem State.setKeyPending_draws (s : State) (b : Bool) : (s.setKeyPending b).draws = s.draws := rfl

@[simp] theorem State.setFB_mem (s : State) (fb : FrameBuffer) : (s.setFB fb).mem = s.mem := rfl
@[simp] theorem State.setFB_V (s : State) (fb : FrameBuffer) : (s.setFB fb).V = s.V := rfl
@[simp] theorem State.setFB_I (s : State) (fb : FrameBuffer) : (s.setFB fb).I = s.I := rfl
@[simp] theorem State.setFB_pc (s : State) (fb : FrameBuffer) : (s.setFB fb).pc = s.pc := rfl
@[simp] theorem State.setFB_stack (s : State) (fb : FrameBuffer) : (s.setFB fb).stack = s.stack := rfl
@[simp] theorem State.setFB_FB (s : State) (fb : FrameBuffer) : (s.setFB fb).FB = fb := rfl
@[simp] theorem State.setFB_DT (s : State) (fb : FrameBuffer) : (s.setFB fb).DT = s.DT := rfl
@[simp] theorem State.setFB_ST (s : State) (fb : FrameBuffer) : (s.setFB fb).ST = s.ST := rfl
@[simp] theorem State.setFB_key (s : State) (fb : FrameBuffer) : (s.setFB fb).key = s.key := rfl
@[simp] theorem State.setFB_keyPending (s : State) (fb : FrameBuffer) : (s.setFB fb).keyPending = s.keyPending := rfl
@[simp] theorem State.setFB_paused (s : State) (fb : FrameBuffer) : (s.setFB fb).paused = s.paused := rfl
@[simp] theorem State.setFB_lastTick (s : State) (fb : FrameBuffer) : (s.setFB fb).lastTick = s.lastTick := rfl
@[simp] theorem State.setFB_config (s : State) (fb : FrameBuffer) : (s.setFB fb).config = s.config := rfl
@[simp] theorem State.setFB_inputs (s : State) (fb : FrameBuffer) : (s.setFB fb).inputs = s.inputs := rfl
@[simp] theorem State.setFB_draws (s : State) (fb : FrameBuffer) : (s.setFB fb).draws = s.draws := rfl

@[simp] theorem State.push_mem (s : State) (a : Word) : (s.push a).mem = s.mem := rfl
@[simp] theorem State.push_V (s : State) (a : Word) : (s.push a).V = s.V := rfl
@[simp] theorem State.push_I (s : State) (a : Word) : (s.push a).I = s.I := rfl
@[simp] theorem State.push_pc (s : State) (a : Word) : (s.push a).pc = s.pc := rfl
@[simp] theorem State.push_stack (s : State) (a : Word) : (s.push a).stack = s.stack ++ [a] := rfl
@[simp] theorem State.push_FB (s : State) (a : Word) : (s.push a).FB = s.FB := rfl
@[simp] theorem State.push_DT (s : State) (a : Word) : (s.push a).DT = s.DT := rfl
@[simp] theorem State.push_ST (s : State) (a : Word) : (s.push a).ST = s.ST := rfl
@[simp] theorem State.push_key (s : State) (a : Word) : (s.push a).key = s.key := rfl
@[simp] theorem State.push_keyPending (s : State) (a : Word) : (s.push a).keyPending = s.keyPending := rfl
@[simp] theorem State.push_paused (s : State) (a : Word) : (s.push a).paused = s.paused := rfl
@[simp] theorem State.push_lastTick (s : State) (a : Word) : (s.push a).lastTick = s.lastTick := rfl
@[simp] theorem State.push_config (s : State) (a : Word) : (s.push a).config = s.config := rfl
@[simp] theorem State.push_inputs (s : State) (a : Word) : (s.push a).inputs = s.inputs := rfl
@[simp] theorem State.push_draws (s : State) (a : Word) : (s.push a).draws = s.draws := rfl

@[simp] theorem State.dropTop_mem (s : State) : s.dropTop.mem = s.mem := rfl
@[simp] theorem State.dropTop_V (s : State) : s.dropTop.V = s.V := rfl
@[simp] theorem State.dropTop_I (s : State) : s.dropTop.I = s.I := rfl
@[simp] theorem State.dropTop_pc (s : State) : s.dropTop.pc = s.pc := rfl
@[simp] theorem State.dropTop_stack (s : State) : s.dropTop.stack = s.stack.dropLast := rfl
@[simp] theorem State.dropTop_FB (s : State) : s.dropTop.FB = s.FB := rfl
@[simp] theorem State.dropTop_DT (s : State) : s.dropTop.DT = s.DT := rfl
@[simp] theorem State.dropTop_ST (s : State) : s.dropTop.ST = s.ST := rfl
@[simp] theorem State.dropTop_key (s : State) : s.dropTop.key = s.key := rfl
@[simp] theorem State.dropTop_keyPending (s : State) : s.dropTop.keyPending = s.keyPending := rfl
@[simp] theorem State.dropTop_paused (s : State) : s.dropTop.paused = s.paused := rfl
@[simp] theorem State.dropTop_lastTick (s : State) : s.dropTop.lastTick = s.lastTick := rfl
@[simp] theorem State.dropTop_config (s : State) : s.dropTop.config = s.config := rfl
@[simp] theorem State.dropTop_inputs (s : State) : s.dropTop.inputs = s.inputs := rfl
@[simp] theorem State.dropTop_draws (s : State) : s.dropTop.draws = s.draws := rfl

@[simp] theorem State.writeBytes_mem (s : State) (a : Nat) (bs : List Byte) : (s.writeBytes a bs).mem = Memory.writeBytes s.config.font s.mem a bs := rfl
@[simp] theorem State.writeBytes_V (s : State) (a : Nat) (bs : List Byte) : (s.writeBytes a bs).V = s.V := rfl
@[simp] theorem State.writeBytes_I (s : State) (a : Nat) (bs : List Byte) : (s.writeBytes a bs).I = s.I := rfl
@[simp] theorem State.writeBytes_pc (s : State) (a : Nat) (bs : List Byte) : (s.writeBytes a bs).pc = s.pc := rfl
@[simp] theorem State.writeBytes_stack (s : State) (a : Nat) (bs : List Byte) : (s.writeBytes a bs).stack = s.stack := rfl
@[simp] theorem State.writeBytes_FB (s : State) (a : Nat) (bs : List Byte) : (s.writeBytes a bs).FB = s.FB := rfl
@[simp] theorem State.writeBytes_DT (s : State) (a : Nat) (bs : List Byte) : (s.writeBytes a bs).DT = s.DT := rfl
@[simp] theorem State.writeBytes_ST (s : State) (a : Nat) (bs : List Byte) : (s.writeBytes a bs).ST = s.ST := rfl
@[simp] theorem State.writeBytes_key (s : State) (a : Nat) (bs : List Byte) : (s.writeBytes a bs).key = s.key := rfl
@[simp] theorem State.writeBytes_keyPending (s : State) (a : Nat) (bs : List Byte) : (s.writeBytes a bs).keyPending = s.keyPending := rfl
@[simp] theorem State.writeBytes_paused (s : State) (a : Nat) (bs : List Byte) : (s.writeBytes a bs).paused = s.paused := rfl
@[simp] theorem State.writeBytes_lastTick (s : State) (a : Nat) (bs : List Byte) : (s.writeBytes a bs).lastTick = s.lastTick := rfl
@[simp] theorem State.writeBytes_config (s : State) (a : Nat) (bs : List Byte) : (s.writeBytes a bs).config = s.config := rfl
@[simp] theorem State.writeBytes_inputs (s : State) (a : Nat) (bs : List Byte) : (s.writeBytes a bs).inputs = s.inputs := rfl
@[simp] theorem State.writeBytes_draws (s : State) (a : Nat) (bs : List Byte) : (s.writeBytes a bs).draws = s.draws := rfl

@[simp] theorem State.loadRegs_mem (s : State) (x : Reg) (a : Nat) : (s.loadRegs x a).mem = s.mem := rfl
@[simp] theorem State.loadRegs_V (s : State) (x : Reg) (a : Nat) : (s.loadRegs x a).V = Vector.ofFn fun k : Fin 16 => if k.val ≤ x.val then s.readByte (a + k.val) else s.reg k := rfl
@[simp] theorem State.loadRegs_I (s : State) (x : Reg) (a : Nat) : (s.loadRegs x a).I = s.I := rfl
@[simp] theorem State.loadRegs_pc (s : State) (x : Reg) (a : Nat) : (s.loadRegs x a).pc = s.pc := rfl
@[simp] theorem State.loadRegs_stack (s : State) (x : Reg) (a : Nat) : (s.loadRegs x a).stack = s.stack := rfl
@[simp] theorem State.loadRegs_FB (s : State) (x : Reg) (a : Nat) : (s.loadRegs x a).FB = s.FB := rfl
@[simp] theorem State.loadRegs_DT (s : State) (x : Reg) (a : Nat) : (s.loadRegs x a).DT = s.DT := rfl
@[simp] theorem State.loadRegs_ST (s : State) (x : Reg) (a : Nat) : (s.loadRegs x a).ST = s.ST := rfl
@[simp] theorem State.loadRegs_key (s : State) (x : Reg) (a : Nat) : (s.loadRegs x a).key = s.key := rfl
@[simp] theorem State.loadRegs_keyPending (s : State) (x : Reg) (a : Nat) : (s.loadRegs x a).keyPending = s.keyPending := rfl
@[simp] theorem State.loadRegs_paused (s : State) (x : Reg) (a : Nat) : (s.loadRegs x a).paused = s.paused := rfl
@[simp] theorem State.loadRegs_lastTick (s : State) (x : Reg) (a : Nat) : (s.loadRegs x a).lastTick = s.lastTick := rfl
@[simp] theorem State.loadRegs_config (s : State) (x : Reg) (a : Nat) : (s.loadRegs x a).config = s.config := rfl
@[simp] theorem State.loadRegs_inputs (s : State) (x : Reg) (a : Nat) : (s.loadRegs x a).inputs = s.inputs := rfl
@[simp] theorem State.loadRegs_draws (s : State) (x : Reg) (a : Nat) : (s.loadRegs x a).draws = s.draws := rfl

@[simp] theorem State.timerTick_mem (s : State) (n : Nat) : (s.timerTick n).mem = s.mem := rfl
@[simp] theorem State.timerTick_V (s : State) (n : Nat) : (s.timerTick n).V = s.V := rfl
@[simp] theorem State.timerTick_I (s : State) (n : Nat) : (s.timerTick n).I = s.I := rfl
@[simp] theorem State.timerTick_pc (s : State) (n : Nat) : (s.timerTick n).pc = s.pc := rfl
@[simp] theorem State.timerTick_stack (s : State) (n : Nat) : (s.timerTick n).stack = s.stack := rfl
@[simp] theorem State.timerTick_FB (s : State) (n : Nat) : (s.timerTick n).FB = s.FB := rfl
@[simp] theorem State.timerTick_DT (s : State) (n : Nat) : (s.timerTick n).DT = countDown s.DT n := rfl
@[simp] theorem State.timerTick_ST (s : State) (n : Nat) : (s.timerTick n).ST = countDown s.ST n := rfl
@[simp] theorem State.timerTick_key (s : State) (n : Nat) : (s.timerTick n).key = s.key := rfl
@[simp] theorem State.timerTick_keyPending (s : State) (n : Nat) : (s.timerTick n).keyPending = s.keyPending := rfl
@[simp] theorem State.timerTick_paused (s : State) (n : Nat) : (s.timerTick n).paused = s.paused := rfl
@[simp] theorem State.timerTick_lastTick (s : State) (n : Nat) : (s.timerTick n).lastTick = s.lastTick + (n : Rat) / 60 := rfl
@[simp] theorem State.timerTick_config (s : State) (n : Nat) : (s.timerTick n).config = s.config := rfl
@[simp] theorem State.timerTick_inputs (s : State) (n : Nat) : (s.timerTick n).inputs = s.inputs := rfl
@[simp] theorem State.timerTick_draws (s : State) (n : Nat) : (s.timerTick n).draws = s.draws := rfl

@[simp] theorem State.nextInput_mem (s : State) : s.nextInput.mem = s.mem := rfl
@[simp] theorem State.nextInput_V (s : State) : s.nextInput.V = s.V := rfl
@[simp] theorem State.nextInput_I (s : State) : s.nextInput.I = s.I := rfl
@[simp] theorem State.nextInput_pc (s : State) : s.nextInput.pc = s.pc := rfl
@[simp] theorem State.nextInput_stack (s : State) : s.nextInput.stack = s.stack := rfl
@[simp] theorem State.nextInput_FB (s : State) : s.nextInput.FB = s.FB := rfl
@[simp] theorem State.nextInput_DT (s : State) : s.nextInput.DT = s.DT := rfl
@[simp] theorem State.nextInput_ST (s : State) : s.nextInput.ST = s.ST := rfl
@[simp] theorem State.nextInput_key (s : State) : s.nextInput.key = s.key := rfl
@[simp] theorem State.nextInput_keyPending (s : State) : s.nextInput.keyPending = s.keyPending := rfl
@[simp] theorem State.nextInput_paused (s : State) : s.nextInput.paused = s.paused := rfl
@[simp] theorem State.nextInput_lastTick (s : State) : s.nextInput.lastTick = s.lastTick := rfl
@[simp] theorem State.nextInput_config (s : State) : s.nextInput.config = s.config := rfl
@[simp] theorem State.nextInput_inputs (s : State) : s.nextInput.inputs = s.inputs.tail := rfl
@[simp] theorem State.nextInput_draws (s : State) : s.nextInput.draws = s.draws + 1 := rfl

@[simp] theorem State.withInput_mem (s : State) (inp : StepInput) : (s.withInput inp).mem = s.mem := rfl
@[simp] theorem State.withInput_V (s : State) (inp : StepInput) : (s.withInput inp).V = s.V := rfl
@[simp] theorem State.withInput_I (s : State) (inp : StepInput) : (s.withInput inp).I = s.I := rfl
@[simp] theorem State.withInput_pc (s : State) (inp : StepInput) : (s.withInput inp).pc = s.pc := rfl
@[simp] theorem State.withInput_stack (s : State) (inp : StepInput) : (s.withInput inp).stack = s.stack := rfl
@[simp] theorem State.withInput_FB (s : State) (inp : StepInput) : (s.withInput inp).FB = s.FB := rfl
@[simp] theorem State.withInput_DT (s : State) (inp : StepInput) : (s.withInput inp).DT = s.DT := rfl
@[simp] theorem State.withInput_ST (s : State) (inp : StepInput) : (s.withInput inp).ST = s.ST := rfl
@[simp] theorem State.withInput_key (s : State) (inp : StepInput) : (s.withInput inp).key = s.key := rfl
@[simp] theorem State.withInput_keyPending (s : State) (inp : StepInput) : (s.withInput inp).keyPending = s.keyPending := rfl
@[simp] theorem State.withInput_paused (s : State) (inp : StepInput) : (s.withInput inp).paused = s.paused := rfl
@[simp] theorem State.withInput_lastTick (s : State) (inp : StepInput) : (s.withInput inp).lastTick = s.lastTick := rfl
@[simp] theorem State.withInput_config (s : State) (inp : StepInput) : (s.withInput inp).config = s.config := rfl
@[simp] theorem State.withInput_inputs (s : State) (inp : StepInput) : (s.withInput inp).inputs = inp :: s.inputs := rfl
@[simp] theorem State.withInput_draws (s : State) (inp : StepInput) : (s.withInput inp).draws = s.draws := rfl

/-! A read through an update that does not touch it. -/

@[simp] theorem State.setReg_readByte (s : State) (x : Reg) (b : Byte) (m : Nat) : (s.setReg x b).readByte m = s.readByte m := rfl
@[simp] theorem State.setReg_stepInput (s : State) (x : Reg) (b : Byte) : (s.setReg x b).stepInput = s.stepInput := rfl
@[simp] theorem State.setReg_pendingKey (s : State) (x : Reg) (b : Byte) : (s.setReg x b).pendingKey = s.pendingKey := rfl
@[simp] theorem State.setI_reg (s : State) (w : Word) (y : Reg) : (s.setI w).reg y = s.reg y := rfl
@[simp] theorem State.setI_readByte (s : State) (w : Word) (m : Nat) : (s.setI w).readByte m = s.readByte m := rfl
@[simp] theorem State.setI_stepInput (s : State) (w : Word) : (s.setI w).stepInput = s.stepInput := rfl
@[simp] theorem State.setI_pendingKey (s : State) (w : Word) : (s.setI w).pendingKey = s.pendingKey := rfl
@[simp] theorem State.setPc_reg (s : State) (w : Word) (y : Reg) : (s.setPc w).reg y = s.reg y := rfl
@[simp] theorem State.setPc_readByte (s : State) (w : Word) (m : Nat) : (s.setPc w).readByte m = s.readByte m := rfl
@[simp] theorem State.setPc_stepInput (s : State) (w : Word) : (s.setPc w).stepInput = s.stepInput := rfl
@[simp] theorem State.setPc_pendingKey (s : State) (w : Word) : (s.setPc w).pendingKey = s.pendingKey := rfl
@[simp] theorem State.setDT_reg (s : State) (b : Byte) (y : Reg) : (s.setDT b).reg y = s.reg y := rfl
@[simp] theorem State.setDT_readByte (s : State) (b : Byte) (m : Nat) : (s.setDT b).readByte m = s.readByte m := rfl
@[simp] theorem State.setDT_stepInput (s : State) (b : Byte) : (s.setDT b).stepInput = s.stepInput := rfl
@[simp] theorem State.setDT_pendingKey (s : State) (b : Byte) : (s.setDT b).pendingKey = s.pendingKey := rfl
@[simp] theorem State.setST_reg (s : State) (b : Byte) (y : Reg) : (s.setST b).reg y = s.reg y := rfl
@[simp] theorem State.setST_readByte (s : State) (b : Byte) (m : Nat) : (s.setST b).readByte m = s.readByte m := rfl
@[simp] theorem State.setST_stepInput (s : State) (b : Byte) : (s.setST b).stepInput = s.stepInput := rfl
@[simp] theorem State.setST_pendingKey (s : State) (b : Byte) : (s.setST b).pendingKey = s.pendingKey := rfl
@[simp] theorem State.setKeyPending_reg (s : State) (b : Bool) (y : Reg) : (s.setKeyPending b).reg y = s.reg y := rfl
@[simp] theorem State.setKeyPending_readByte (s : State) (b : Bool) (m : Nat) : (s.setKeyPending b).readByte m = s.readByte m := rfl
@[simp] theorem State.setKeyPending_stepInput (s : State) (b : Bool) : (s.setKeyPending b).stepInput = s.stepInput := rfl
@[simp] theorem State.setFB_reg (s : State) (fb : FrameBuffer) (y : Reg) : (s.setFB fb).reg y = s.reg y := rfl
@[simp] theorem State.setFB_readByte (s : State) (fb : FrameBuffer) (m : Nat) : (s.setFB fb).readByte m = s.readByte m := rfl
@[simp] theorem State.setFB_stepInput (s : State) (fb : FrameBuffer) : (s.setFB fb).stepInput = s.stepInput := rfl
@[simp] theorem State.setFB_pendingKey (s : State) (fb : FrameBuffer) : (s.setFB fb).pendingKey = s.pendingKey := rfl
@[simp] theorem State.push_reg (s : State) (a : Word) (y : Reg) : (s.push a).reg y = s.reg y := rfl
@[simp] theorem State.push_readByte (s : State) (a : Word) (m : Nat) : (s.push a).readByte m = s.readByte m := rfl
@[simp] theorem State.push_stepInput (s : State) (a : Word) : (s.push a).stepInput = s.stepInput := rfl
@[simp] theorem State.push_pendingKey (s : State) (a : Word) : (s.push a).pendingKey = s.pendingKey := rfl
@[simp] theorem State.dropTop_reg (s : State) (y : Reg) : s.dropTop.reg y = s.reg y := rfl
@[simp] theorem State.dropTop_readByte (s : State) (m : Nat) : s.dropTop.readByte m = s.readByte m := rfl
@[simp] theorem State.dropTop_stepInput (s : State) : s.dropTop.stepInput = s.stepInput := rfl
@[simp] theorem State.dropTop_pendingKey (s : State) : s.dropTop.pendingKey = s.pendingKey := rfl
@[simp] theorem State.writeBytes_reg (s : State) (a : Nat) (bs : List Byte) (y : Reg) : (s.writeBytes a bs).reg y = s.reg y := rfl
@[simp] theorem State.writeBytes_stepInput (s : State) (a : Nat) (bs : List Byte) : (s.writeBytes a bs).stepInput = s.stepInput := rfl
@[simp] theorem State.writeBytes_pendingKey (s : State) (a : Nat) (bs : List Byte) : (s.writeBytes a bs).pendingKey = s.pendingKey := rfl
@[simp] theorem State.loadRegs_readByte (s : State) (x : Reg) (a : Nat) (m : Nat) : (s.loadRegs x a).readByte m = s.readByte m := rfl
@[simp] theorem State.loadRegs_stepInput (s : State) (x : Reg) (a : Nat) : (s.loadRegs x a).stepInput = s.stepInput := rfl
@[simp] theorem State.loadRegs_pendingKey (s : State) (x : Reg) (a : Nat) : (s.loadRegs x a).pendingKey = s.pendingKey := rfl
@[simp] theorem State.timerTick_reg (s : State) (n : Nat) (y : Reg) : (s.timerTick n).reg y = s.reg y := rfl
@[simp] theorem State.timerTick_readByte (s : State) (n : Nat) (m : Nat) : (s.timerTick n).readByte m = s.readByte m := rfl
@[simp] theorem State.timerTick_stepInput (s : State) (n : Nat) : (s.timerTick n).stepInput = s.stepInput := rfl
@[simp] theorem State.timerTick_pendingKey (s : State) (n : Nat) : (s.timerTick n).pendingKey = s.pendingKey := rfl
@[simp] theorem State.nextInput_reg (s : State) (y : Reg) : s.nextInput.reg y = s.reg y := rfl
@[simp] theorem State.nextInput_readByte (s : State) (m : Nat) : s.nextInput.readByte m = s.readByte m := rfl
@[simp] theorem State.nextInput_pendingKey (s : State) : s.nextInput.pendingKey = s.pendingKey := rfl
@[simp] theorem State.withInput_reg (s : State) (inp : StepInput) (y : Reg) : (s.withInput inp).reg y = s.reg y := rfl
@[simp] theorem State.withInput_readByte (s : State) (inp : StepInput) (m : Nat) : (s.withInput inp).readByte m = s.readByte m := rfl
@[simp] theorem State.withInput_pendingKey (s : State) (inp : StepInput) : (s.withInput inp).pendingKey = s.pendingKey := rfl

/-- A register after a write of another or the same one. -/
@[simp] theorem State.reg_setReg (s : State) (x y : Reg) (b : Byte) :
    (s.setReg x b).reg y = if x = y then b else s.reg y := by
  simp [State.reg, State.setReg, Vector.getElem_set, Fin.ext_iff]

/-- A register depends on the register file alone. -/
theorem State.reg_congr {s t : State} (h : t.V = s.V) (x : Reg) : t.reg x = s.reg x := by
  simp [State.reg, h]

/-- A byte of memory depends on memory and font alone. -/
theorem State.readByte_congr {s t : State} (hm : t.mem = s.mem) (hc : t.config = s.config) (a : Nat) :
    t.readByte a = s.readByte a := by
  simp [State.readByte, hm, hc]

/-- A register after a block load. -/
@[simp] theorem State.reg_loadRegs (s : State) (x : Reg) (a : Nat) (k : Reg) :
    (s.loadRegs x a).reg k = if k.val ≤ x.val then s.readByte (a + k.val) else s.reg k := by
  simp [State.reg, State.loadRegs]

/-- The bytes a block store writes: V0..VX in order. -/
theorem State.regsUpTo_length (s : State) (x : Reg) : (s.regsUpTo x).length = x.val + 1 := by
  have := x.isLt
  simp [State.regsUpTo]

theorem State.regsUpTo_getElem (s : State) (x : Reg) (k : Nat) (h : k < (s.regsUpTo x).length) :
    (s.regsUpTo x)[k] = s.reg ⟨k, by rw [State.regsUpTo_length] at h; omega⟩ := by
  simp [State.regsUpTo, State.reg]

/-- A flagged result: VF holds the flag, VX the result where it is another register, the rest is unchanged. -/
theorem State.reg_writeFlagged (s : State) (x y : Reg) (r f : Byte) :
    (s.writeFlagged x r f).reg y = if y = flagReg then f else if y = x then r else s.reg y := by
  simp only [State.writeFlagged, State.reg_setReg, eq_comm]

end Sys2Proof.Machine
end

