-- ==== Sys2Proof/Laws/Memory.lean ====
section
/-! SUPPORT. The laws of memory: read after write, the canonical form kept, and equal memories equal data. -/

namespace Sys2Proof.Machine

theorem Memory.read_insertCell (font : Font) (a : Nat) (b : Byte) (m : Memory) (ha : ∀ c ∈ m, c.1 ≠ a) (a' : Nat) :
    Memory.read font (Memory.insertCell a b m) a' = if a' = a then b else Memory.read font m a' := by
  induction m with
  | nil => simp [Memory.insertCell, Memory.read, eq_comm]
  | cons c m ih =>
    have hc : c.1 ≠ a := ha c (by simp)
    have ih := ih (fun d hd => ha d (by simp [hd]))
    by_cases hlt : a < c.1
    · by_cases h : a' = a
      · simp [Memory.insertCell, Memory.read, hlt, h]
      · simp [Memory.insertCell, Memory.read, hlt, h, Ne.symm h]
    · by_cases h : a' = a
      · subst h; simp [Memory.insertCell, Memory.read, hlt, hc, ih]
      · simp [Memory.insertCell, Memory.read, hlt, h, ih]

theorem Memory.read_filter_ne (font : Font) (a : Nat) (m : Memory) (a' : Nat) :
    Memory.read font (m.filter (fun c => c.1 ≠ a)) a' =
      if a' = a then Memory.unlisted font a else Memory.read font m a' := by
  induction m with
  | nil => by_cases h : a' = a <;> simp [Memory.read, h]
  | cons c m ih =>
    by_cases hc : c.1 = a
    · by_cases h : a' = a
      · simp [hc, h] at ih ⊢; exact ih
      · have : c.1 ≠ a' := fun e => h (by rw [← e, hc])
        simp [hc, h, Memory.read] at ih ⊢
        rw [if_neg (by rw [← hc]; exact this), ih]
    · by_cases h : a' = a
      · subst h; simp [hc, Memory.read] at ih ⊢; exact ih
      · simp [hc, h, Memory.read] at ih ⊢; rw [ih]

/-- A read after a write: the byte written there, every other address as before (spec/20_memory.md R57). -/
theorem Memory.read_write (font : Font) (m : Memory) (a : Nat) (b : Byte) (a' : Nat) :
    Memory.read font (Memory.write font m a b) a' = if a' = a then b else Memory.read font m a' := by
  unfold Memory.write
  by_cases hb : b = Memory.unlisted font a
  · simp only [hb, if_true]; rw [Memory.read_filter_ne]
  · simp only [hb, if_false]
    rw [Memory.read_insertCell font a b _ (by simp), Memory.read_filter_ne]
    by_cases h : a' = a <;> simp [h]

/-- A read after a store of consecutive bytes. -/
theorem Memory.read_writeBytes (font : Font) (m : Memory) (a : Nat) (bs : List Byte) (a' : Nat) :
    Memory.read font (Memory.writeBytes font m a bs) a' =
      if h : a ≤ a' ∧ a' - a < bs.length then bs[a' - a]'h.2 else Memory.read font m a' := by
  induction bs generalizing a with
  | nil => simp [Memory.writeBytes]
  | cons b bs ih =>
    simp only [Memory.writeBytes, Memory.read_write, ih]
    by_cases h : a' = a
    · subst h; simp
    · rw [if_neg h]
      by_cases h1 : a + 1 ≤ a' ∧ a' - (a + 1) < bs.length
      · have h2 : a ≤ a' ∧ a' - a < (b :: bs).length := by simp only [List.length_cons]; omega
        rw [dif_pos h1, dif_pos h2]
        obtain ⟨k, hk⟩ : ∃ k, a' = a + 1 + k := ⟨a' - (a + 1), by omega⟩
        subst hk
        simp [show a + 1 + k - a = k + 1 by omega]
      · have h2 : ¬ (a ≤ a' ∧ a' - a < (b :: bs).length) := by simp only [List.length_cons]; omega
        rw [dif_neg h1, dif_neg h2]

theorem State.readByte_writeBytes (s : State) (a : Nat) (bs : List Byte) (a' : Nat) :
    (s.writeBytes a bs).readByte a' = if h : a ≤ a' ∧ a' - a < bs.length then bs[a' - a]'h.2 else s.readByte a' :=
  Memory.read_writeBytes s.config.font s.mem a bs a'

theorem Memory.mem_insertCell (a : Nat) (b : Byte) (m : Memory) (c : Host.Cell) :
    c ∈ Memory.insertCell a b m ↔ c = (a, b) ∨ c ∈ m := by
  induction m with
  | nil => simp [Memory.insertCell]
  | cons d m ih =>
    by_cases h : a < d.1
    · simp [Memory.insertCell, h]
    · simp only [Memory.insertCell, h, if_false, List.mem_cons, ih]; tauto

theorem Memory.insertCell_rising (a : Nat) (b : Byte) (m : Memory) (hm : m.Pairwise (fun c d => c.1 < d.1))
    (ha : ∀ c ∈ m, c.1 ≠ a) : (Memory.insertCell a b m).Pairwise (fun c d => c.1 < d.1) := by
  induction m with
  | nil => simp [Memory.insertCell]
  | cons d m ih =>
    rw [List.pairwise_cons] at hm
    by_cases h : a < d.1
    · simp only [Memory.insertCell, h, if_true, List.pairwise_cons, List.mem_cons]
      refine ⟨?_, hm.1, hm.2⟩
      rintro c (rfl | hc)
      · exact h
      · exact lt_trans h (hm.1 c hc)
    · simp only [Memory.insertCell, h, if_false, List.pairwise_cons, Memory.mem_insertCell]
      refine ⟨?_, ih hm.2 (fun c hc => ha c (by simp [hc]))⟩
      rintro c (rfl | hc)
      · have := ha d (by simp); simp only; omega
      · exact hm.1 c hc

/-- A write inside memory keeps the canonical form. -/
theorem Memory.write_wf (font : Font) (m : Memory) (a : Nat) (b : Byte) (hm : Memory.wf font m) (ha : a < memSize) :
    Memory.wf font (Memory.write font m a b) := by
  have hf : (m.filter (fun c => c.1 ≠ a)).Pairwise (fun c d => c.1 < d.1) := hm.1.filter _
  have hl : ∀ c ∈ m.filter (fun c => c.1 ≠ a), c.1 < memSize ∧ c.2 ≠ Memory.unlisted font c.1 :=
    fun c hc => hm.2 c (List.mem_of_mem_filter hc)
  unfold Memory.write
  by_cases hb : b = Memory.unlisted font a
  · simp only [hb, if_true]; exact ⟨hf, hl⟩
  · simp only [hb, if_false]
    refine ⟨Memory.insertCell_rising a b _ hf (by simp), fun c hc => ?_⟩
    rw [Memory.mem_insertCell] at hc
    rcases hc with rfl | hc
    · exact ⟨ha, hb⟩
    · exact hl c hc

/-- A store of consecutive bytes inside memory keeps the canonical form. -/
theorem Memory.writeBytes_wf (font : Font) (m : Memory) (a : Nat) (bs : List Byte) (hm : Memory.wf font m)
    (ha : a + bs.length ≤ memSize) : Memory.wf font (Memory.writeBytes font m a bs) := by
  induction bs generalizing a with
  | nil => exact hm
  | cons b bs ih =>
    simp only [List.length_cons] at ha
    exact Memory.write_wf font _ a b (ih (a + 1) (by omega)) (by omega)

theorem Memory.read_below (font : Font) (m : Memory) (a : Nat) (h : ∀ c ∈ m, a < c.1) :
    Memory.read font m a = Memory.unlisted font a := by
  induction m with
  | nil => rfl
  | cons c m ih =>
    have := h c (by simp)
    simp only [Memory.read]
    rw [if_neg (by omega), ih (fun d hd => h d (by simp [hd]))]

end Sys2Proof.Machine
end

