-- ==== Sys2Proof/Laws/Ops.lean ====
section
/-! SUPPORT. What each shared operation can do, said once: how instructions end, the bounds check, the fetch, the tick and the
end of the step. -/

namespace Sys2Proof.Machine

@[simp] theorem State.advance_eq (s : State) : s.advance = .next (s.setPc (s.pc + 2)) := rfl
@[simp] theorem State.redirect_eq (s : State) (w : Word) : s.redirect w = .next (s.setPc w) := rfl
@[simp] theorem State.skipIf_eq (s : State) (c : Bool) :
    s.skipIf c = .next (s.setPc (if c then s.pc + 4 else s.pc + 2)) := rfl
@[simp] theorem raise_eq (f : Fault) : raise f = .fault f := rfl

/-- The bounds check in closed form: it fails when the access is not empty and ends above memory, and then the first bad
address is the base, or 4096 where the base is inside (spec/20_memory.md R56). -/
theorem firstOutOfBounds_eq (base n : Nat) :
    firstOutOfBounds base n = if 0 < n ∧ memSize < base + n then some (max base memSize) else none := by
  induction n with
  | zero => simp [firstOutOfBounds]
  | succ n ih =>
    unfold firstOutOfBounds at ih ⊢
    rw [List.range_succ, List.map_append, List.find?_append, ih]
    by_cases h : 0 < n ∧ memSize < base + n
    · rw [if_pos h, if_pos (by omega)]; rfl
    · rw [if_neg h]
      by_cases h2 : memSize ≤ base + n
      · rw [if_pos (by omega)]
        have : max base memSize = base + n := by omega
        simp [h2, this]
      · rw [if_neg (by omega)]; simp [h2]

/-- The access is inside memory: the continuation runs. -/
theorem State.withBounds_ok (s : State) (n : Nat) (ok : Host.Outcome State Fault Refusal)
    (h : n = 0 ∨ s.I.toNat + n ≤ memSize) : s.withBounds n ok = ok := by
  unfold State.withBounds
  rw [firstOutOfBounds_eq, if_neg (by omega)]

/-- The access leaves memory: MemoryBoundsFault with the first bad address. -/
theorem State.withBounds_fault (s : State) (n : Nat) (ok : Host.Outcome State Fault Refusal)
    (h : 0 < n ∧ memSize < s.I.toNat + n) : s.withBounds n ok = .fault (.memoryBounds s.pc (max s.I.toNat memSize)) := by
  unfold State.withBounds
  rw [firstOutOfBounds_eq, if_pos h]
  rfl

/-- The bounds check answers nothing else. -/
theorem State.withBounds_cases (s : State) (n : Nat) (ok : Host.Outcome State Fault Refusal) :
    (n = 0 ∨ s.I.toNat + n ≤ memSize) ∧ s.withBounds n ok = ok ∨
    (0 < n ∧ memSize < s.I.toNat + n) ∧ s.withBounds n ok = .fault (.memoryBounds s.pc (max s.I.toNat memSize)) := by
  by_cases h : 0 < n ∧ memSize < s.I.toNat + n
  · exact .inr ⟨h, s.withBounds_fault n ok h⟩
  · exact .inl ⟨by omega, s.withBounds_ok n ok (by omega)⟩

theorem State.fetch_ok (s : State) (h : s.pc.toNat + 1 < memSize) :
    s.fetch = .ok (wordOfBytes (s.readByte s.pc.toNat) (s.readByte (s.pc.toNat + 1))) := by
  unfold State.fetch; rw [if_neg (by omega)]

theorem State.fetch_fault (s : State) (h : memSize ≤ s.pc.toNat + 1) : s.fetch = .error (.decodeFault s.pc) := by
  unfold State.fetch; rw [if_pos h]

/-- A timer after a tick, as a number (spec/45_input_timers.md R140). -/
@[simp] theorem countDown_toNat (t : Byte) (n : Nat) : (countDown t n).toNat = t.toNat - n := by
  have := t.isLt
  simp only [countDown, BitVec.toNat_ofNat]
  omega

/-- Everything `step` can answer: nothing while paused, the fetch's fault, or what `exec` answers for the fetched word. -/
theorem step_paused (s : State) (h : s.paused = true) : step s = .next s := by simp [step, h]

theorem step_fetch_fault (s : State) (h : s.paused = false) (hpc : memSize ≤ s.pc.toNat + 1) :
    step s = .fault (.decodeFault s.pc) := by
  simp [step, h, s.fetch_fault hpc]

/-- If `step` answers next, the block was paused and nothing changed, or the fetched word's instruction answered next and the
step ended on it. -/
theorem step_next (s t : State) (h : step s = .next t) :
    (s.paused = true ∧ t = s) ∨
    (s.paused = false ∧ s.pc.toNat + 1 < memSize ∧
      ∃ u, exec (decodeWord (wordOfBytes (s.readByte s.pc.toNat) (s.readByte (s.pc.toNat + 1)))) s = .next u ∧ t = u.endStep) := by
  unfold step at h
  by_cases hp : s.paused = true
  · left; simpa [hp, eq_comm] using h
  · right
    have hp : s.paused = false := by simpa using hp
    by_cases hpc : s.pc.toNat + 1 < memSize
    · refine ⟨hp, hpc, ?_⟩
      rw [s.fetch_ok hpc] at h
      simp only [hp] at h
      revert h
      cases hx : exec (decodeWord (wordOfBytes (s.readByte s.pc.toNat) (s.readByte (s.pc.toNat + 1)))) s with
      | next u => intro h; exact ⟨u, rfl, by simpa using h.symm⟩
      | fault f => intro h; simp at h
      | refused r => intro h; simp at h
    · rw [s.fetch_fault (by omega)] at h; simp [hp] at h

@[simp] theorem State.endStep_mem (s : State) : s.endStep.mem = s.mem := rfl
@[simp] theorem State.endStep_V (s : State) : s.endStep.V = s.V := rfl
@[simp] theorem State.endStep_I (s : State) : s.endStep.I = s.I := rfl
@[simp] theorem State.endStep_pc (s : State) : s.endStep.pc = s.pc := rfl
@[simp] theorem State.endStep_stack (s : State) : s.endStep.stack = s.stack := rfl
@[simp] theorem State.endStep_FB (s : State) : s.endStep.FB = s.FB := rfl
@[simp] theorem State.endStep_DT (s : State) : s.endStep.DT = countDown s.DT s.stepInput.ticks := rfl
@[simp] theorem State.endStep_ST (s : State) : s.endStep.ST = countDown s.ST s.stepInput.ticks := rfl
@[simp] theorem State.endStep_key (s : State) : s.endStep.key = s.key := rfl
@[simp] theorem State.endStep_keyPending (s : State) : s.endStep.keyPending = false := rfl
@[simp] theorem State.endStep_paused (s : State) : s.endStep.paused = s.paused := rfl
@[simp] theorem State.endStep_lastTick (s : State) : s.endStep.lastTick = s.lastTick + (s.stepInput.ticks : Rat) / 60 := rfl
@[simp] theorem State.endStep_config (s : State) : s.endStep.config = s.config := rfl
@[simp] theorem State.endStep_inputs (s : State) : s.endStep.inputs = s.inputs.tail := rfl
@[simp] theorem State.endStep_draws (s : State) : s.endStep.draws = s.draws + 1 := rfl

end Sys2Proof.Machine
end

