-- ==== Sys2Proof/Laws/Display.lean ====
section
/-! SUPPORT. The framebuffer through its pixels: toggling, drawing a byte, drawing rows, and equality pixel by pixel. -/

namespace Sys2Proof.Machine

theorem FrameBuffer.get_outside (fb : FrameBuffer) (r c : Nat) (h : ¬ (r < 32 ∧ c < 64)) : fb.get r c = false := by
  simp [FrameBuffer.get, h]

/-- Two framebuffers with the same pixels are equal. -/
theorem FrameBuffer.ext_get (fb fb' : FrameBuffer) (h : ∀ r c, r < 32 → c < 64 → fb.get r c = fb'.get r c) : fb = fb' := by
  apply Vector.ext
  intro r hr
  apply Vector.ext
  intro c hc
  simpa [FrameBuffer.get, hr, hc] using h r c hr hc

@[simp] theorem FrameBuffer.get_cleared (r c : Nat) : FrameBuffer.cleared.get r c = false := by
  simp [FrameBuffer.get, FrameBuffer.cleared]

/-- A toggle turns its own pixel and no other. -/
theorem FrameBuffer.get_toggle (fb : FrameBuffer) (r c r' c' : Nat) :
    (fb.toggle r c).get r' c' = if r' = r ∧ c' = c ∧ r < 32 ∧ c < 64 then !fb.get r c else fb.get r' c' := by
  unfold FrameBuffer.toggle
  by_cases h : r < 32 ∧ c < 64
  · simp only [h, and_self, dif_pos, and_true]
    by_cases hr : r' = r
    · subst hr
      by_cases hc : c' = c
      · subst hc; simp [FrameBuffer.get, h]
      · simp only [FrameBuffer.get, hc, and_false, if_false]
        by_cases hb : c' < 64
        · simp [h.1, hb, Ne.symm hc]
        · simp [hb]
    · simp only [FrameBuffer.get, hr, false_and, if_false]
      by_cases hb : r' < 32 ∧ c' < 64
      · simp [hb, Ne.symm hr]
      · simp [hb]
  · rw [dif_neg h, if_neg (by tauto)]

/-- The bit of a byte that lands on column c when the byte is drawn from column x on. -/
def columnBit (b : Byte) (x c : Nat) : Bool := decide (x ≤ c ∧ c < x + 8 ∧ c < 64) && pixelBit b (c - x)

theorem drawPixels_spec (fb : FrameBuffer) (x y : Nat) (b : Byte) (hy : y < 32) (n : Nat) :
    (∀ r c, ((List.range n).foldl (drawPixel x y b) (fb, false)).1.get r c =
      (fb.get r c ^^ (decide (r = y ∧ x ≤ c ∧ c < x + n ∧ c < 64) && pixelBit b (c - x)))) ∧
    (((List.range n).foldl (drawPixel x y b) (fb, false)).2 = true ↔
      ∃ p, p < n ∧ pixelBit b p = true ∧ x + p < 64 ∧ fb.get y (x + p) = true) := by
  induction n with
  | zero =>
    constructor
    · intro r c
      have : decide (r = y ∧ x ≤ c ∧ c < x + 0 ∧ c < 64) = false := decide_eq_false (by omega)
      simp only [this, List.range_zero, List.foldl_nil, Bool.false_and, Bool.xor_false]
    · simp
  | succ n ih =>
    rw [List.range_succ, List.foldl_append]
    generalize (List.range n).foldl (drawPixel x y b) (fb, false) = acc at ih
    obtain ⟨ih1, ih2⟩ := ih
    simp only [List.foldl_cons, List.foldl_nil, drawPixel]
    have hget : acc.1.get y (x + n) = fb.get y (x + n) := by
      rw [ih1]
      simp
    by_cases hb : pixelBit b n = true ∧ x + n < 64
    · rw [if_pos hb]
      constructor
      · intro r c
        simp only [FrameBuffer.get_toggle, hget]
        by_cases hrc : r = y ∧ c = x + n
        · obtain ⟨rfl, rfl⟩ := hrc
          have h1 : (x ≤ x + n ∧ x + n < x + (n + 1) ∧ x + n < 64) := by omega
          simp [hy, hb.2, hb.1]
        · rw [if_neg (by omega), ih1]
          have : (r = y ∧ x ≤ c ∧ c < x + n ∧ c < 64) ↔ (r = y ∧ x ≤ c ∧ c < x + (n + 1) ∧ c < 64) := by omega
          simp only [this]
      · simp only [Bool.or_eq_true, ih2, hget]
        constructor
        · rintro (⟨p, hp, h⟩ | h)
          · exact ⟨p, by omega, h⟩
          · exact ⟨n, by omega, hb.1, hb.2, h⟩
        · rintro ⟨p, hp, h1, h2, h3⟩
          by_cases hpn : p = n
          · subst hpn; exact .inr h3
          · exact .inl ⟨p, by omega, h1, h2, h3⟩
    · rw [if_neg hb]
      constructor
      · intro r c
        rw [ih1]
        by_cases hc : c = x + n
        · subst hc
          by_cases h64 : x + n < 64
          · have : pixelBit b n = false := by simpa [h64] using hb
            simp [this]
          · simp [h64]
        · have : (r = y ∧ x ≤ c ∧ c < x + n ∧ c < 64) ↔ (r = y ∧ x ≤ c ∧ c < x + (n + 1) ∧ c < 64) := by omega
          simp only [this]
      · rw [ih2]
        constructor
        · rintro ⟨p, hp, h⟩; exact ⟨p, by omega, h⟩
        · rintro ⟨p, hp, h1, h2, h3⟩
          by_cases hpn : p = n
          · subst hpn; exact absurd ⟨h1, h2⟩ hb
          · exact ⟨p, by omega, h1, h2, h3⟩

/-- The pixels after `drawByte` (spec/41_display.md R96, R97): the byte is XORed into its row from column x, clipped at 64. -/
theorem drawByte_get (fb : FrameBuffer) (x y : Nat) (b : Byte) (hy : y < 32) (r c : Nat) :
    (drawByte fb x y b).1.get r c = (fb.get r c ^^ (decide (r = y) && columnBit b x c)) := by
  rw [drawByte, (drawPixels_spec fb x y b hy 8).1 r c]
  by_cases h : r = y <;> simp [h, columnBit]

/-- The collision `drawByte` reports: some visible set bit met a pixel that was on (R96). -/
theorem drawByte_collision (fb : FrameBuffer) (x y : Nat) (b : Byte) (hy : y < 32) :
    (drawByte fb x y b).2 = true ↔ ∃ c, columnBit b x c = true ∧ fb.get y c = true := by
  rw [drawByte, (drawPixels_spec fb x y b hy 8).2]
  simp only [columnBit, Bool.and_eq_true, decide_eq_true_eq]
  constructor
  · rintro ⟨p, hp, h1, h2, h3⟩
    exact ⟨x + p, ⟨⟨by omega, by omega, h2⟩, by simpa using h1⟩, h3⟩
  · rintro ⟨c, ⟨⟨h1, h2, h3⟩, h4⟩, h5⟩
    exact ⟨c - x, by omega, h4, by omega, by rwa [show x + (c - x) = c by omega]⟩

/-- The bit a sprite of the given bytes, drawn from (x, y) on, puts on the pixel (r, c). -/
def spriteBit (bs : List Byte) (x y r c : Nat) : Bool :=
  decide (y ≤ r ∧ r ≤ 31) && (match bs[r - y]? with
    | some b => columnBit b x c
    | none => false)

theorem spriteBit_cons (b : Byte) (bs : List Byte) (x y r c : Nat) :
    spriteBit (b :: bs) x y r c =
      if r = y then decide (y ≤ 31) && columnBit b x c else spriteBit bs x (y + 1) r c := by
  by_cases h : r = y
  · subst h; simp [spriteBit]
  · rw [if_neg h]
    by_cases hlt : y < r
    · obtain ⟨k, rfl⟩ : ∃ k, r = y + 1 + k := ⟨r - (y + 1), by omega⟩
      simp only [spriteBit]
      rw [show y + 1 + k - y = k + 1 by omega, show y + 1 + k - (y + 1) = k by omega]
      simp only [List.getElem?_cons_succ]
      congr 1
      rw [decide_eq_decide]; omega
    · have h1 : decide (y ≤ r ∧ r ≤ 31) = false := decide_eq_false (by omega)
      have h2 : decide (y + 1 ≤ r ∧ r ≤ 31) = false := decide_eq_false (by omega)
      simp only [spriteBit, h1, h2, Bool.false_and]

/-- The pixels after the rows are drawn: every visible bit of the sprite is XORed in (R96, R100, R101). -/
theorem drawRows_get (fb : FrameBuffer) (x y : Nat) (bs : List Byte) (r c : Nat) :
    (drawRows fb x y bs).1.get r c = (fb.get r c ^^ spriteBit bs x y r c) := by
  induction bs generalizing fb y with
  | nil => simp [drawRows, spriteBit]
  | cons b bs ih =>
    simp only [drawRows]
    rw [ih, spriteBit_cons]
    by_cases hy : y ≤ 31
    · simp only [hy, if_true, drawByte_get fb x y b (by omega)]
      by_cases h : r = y
      · subst h
        have : spriteBit bs x (r + 1) r c = false := by simp [spriteBit]
        simp [this]
      · simp [h]
    · simp only [hy, if_false]
      by_cases h : r = y
      · subst h
        have : spriteBit bs x (r + 1) r c = false := by simp [spriteBit]
        simp [this]
      · simp [h]

/-- The collision of the rows: some visible set bit met a pixel that was on before the sprite was drawn (R100). -/
theorem drawRows_collision (fb : FrameBuffer) (x y : Nat) (bs : List Byte) :
    (drawRows fb x y bs).2 = true ↔ ∃ r c, spriteBit bs x y r c = true ∧ fb.get r c = true := by
  induction bs generalizing fb y with
  | nil => simp [drawRows, spriteBit]
  | cons b bs ih =>
    simp only [drawRows, Bool.or_eq_true, ih]
    have below : ∀ r c, spriteBit bs x (y + 1) r c = true → r ≠ y := by
      rintro r c h rfl
      simp [spriteBit] at h
    by_cases hy : y ≤ 31
    · simp only [hy, if_true, drawByte_collision fb x y b (by omega)]
      constructor
      · rintro (⟨c, h1, h2⟩ | ⟨r, c, h1, h2⟩)
        · exact ⟨y, c, by rw [spriteBit_cons]; simp [hy, h1], h2⟩
        · have hr := below r c h1
          refine ⟨r, c, by rw [spriteBit_cons, if_neg hr]; exact h1, ?_⟩
          rw [drawByte_get fb x y b (by omega)] at h2
          simpa [hr] using h2
      · rintro ⟨r, c, h1, h2⟩
        rw [spriteBit_cons] at h1
        by_cases hr : r = y
        · subst hr; left; exact ⟨c, by simpa [hy] using h1, h2⟩
        · rw [if_neg hr] at h1
          right
          refine ⟨r, c, h1, ?_⟩
          rw [drawByte_get fb x y b (by omega)]
          simpa [hr] using h2
    · simp only [hy, if_false]
      constructor
      · rintro (h | ⟨r, c, h1, h2⟩)
        · simp at h
        · exact ⟨r, c, by rw [spriteBit_cons, if_neg (below r c h1)]; exact h1, h2⟩
      · rintro ⟨r, c, h1, h2⟩
        rw [spriteBit_cons] at h1
        by_cases hr : r = y
        · subst hr; simp [hy] at h1
        · rw [if_neg hr] at h1; exact .inr ⟨r, c, h1, h2⟩

end Sys2Proof.Machine
end

