-- ==== Sys2Proof/Laws/Exec.lean ====
section
/-! SUPPORT. One lemma per instruction and outcome: everything its meaning can answer. The provers cite these instead of
unfolding `exec`. -/

namespace Sys2Proof.Machine

/-! ## Instructions that always complete -/

theorem exec_cls (s : State) : exec .cls s = .next ((s.setFB FrameBuffer.cleared).setPc (s.pc + 2)) := rfl
theorem exec_jpNnn (nnn : Addr) (s : State) : exec (.jpNnn nnn) s = .next (s.setPc (addrWord nnn)) := rfl
theorem exec_jpV0Nnn (nnn : Addr) (s : State) : exec (.jpV0Nnn nnn) s = .next (s.setPc (s.offsetTarget nnn)) := rfl
theorem exec_seVxNn (x : Reg) (nn : Byte) (s : State) :
    exec (.seVxNn x nn) s = .next (s.setPc (if s.reg x == nn then s.pc + 4 else s.pc + 2)) := rfl
theorem exec_sneVxNn (x : Reg) (nn : Byte) (s : State) :
    exec (.sneVxNn x nn) s = .next (s.setPc (if s.reg x != nn then s.pc + 4 else s.pc + 2)) := rfl
theorem exec_seVxVy (x y : Reg) (s : State) :
    exec (.seVxVy x y) s = .next (s.setPc (if s.reg x == s.reg y then s.pc + 4 else s.pc + 2)) := rfl
theorem exec_sneVxVy (x y : Reg) (s : State) :
    exec (.sneVxVy x y) s = .next (s.setPc (if s.reg x != s.reg y then s.pc + 4 else s.pc + 2)) := rfl
theorem exec_ldVxNn (x : Reg) (nn : Byte) (s : State) :
    exec (.ldVxNn x nn) s = .next ((s.setReg x nn).setPc (s.pc + 2)) := rfl
theorem exec_addVxNn (x : Reg) (nn : Byte) (s : State) :
    exec (.addVxNn x nn) s = .next ((s.setReg x (addSat (s.reg x) nn)).setPc (s.pc + 2)) := rfl
theorem exec_ldVxVy (x y : Reg) (s : State) :
    exec (.ldVxVy x y) s = .next ((s.setReg x (s.reg y)).setPc (s.pc + 2)) := rfl
theorem exec_orVxVy (x y : Reg) (s : State) :
    exec (.orVxVy x y) s = .next ((s.setReg x (s.reg x ||| s.reg y)).setPc (s.pc + 2)) := rfl
theorem exec_andVxVy (x y : Reg) (s : State) :
    exec (.andVxVy x y) s = .next ((s.setReg x (s.reg x &&& s.reg y)).setPc (s.pc + 2)) := rfl
theorem exec_xorVxVy (x y : Reg) (s : State) :
    exec (.xorVxVy x y) s = .next ((s.setReg x (s.reg x ^^^ s.reg y)).setPc (s.pc + 2)) := rfl
theorem exec_addVxVy (x y : Reg) (s : State) : exec (.addVxVy x y) s =
    .next ((s.writeFlagged x (addSat (s.reg x) (s.reg y)) (addFlag (s.reg x) (s.reg y))).setPc (s.pc + 2)) := rfl
theorem exec_subVxVy (x y : Reg) (s : State) : exec (.subVxVy x y) s =
    .next ((s.writeFlagged x (subClamp (s.reg x) (s.reg y)) (subFlag (s.reg x) (s.reg y))).setPc (s.pc + 2)) := rfl
theorem exec_subnVxVy (x y : Reg) (s : State) : exec (.subnVxVy x y) s =
    .next ((s.writeFlagged x (subClamp (s.reg y) (s.reg x)) (subFlag (s.reg y) (s.reg x))).setPc (s.pc + 2)) := rfl
theorem exec_shrVxVy (x y : Reg) (s : State) : exec (.shrVxVy x y) s =
    .next ((s.writeFlagged x (shiftRight (s.shiftSource x y)) (shiftRightFlag (s.shiftSource x y))).setPc (s.pc + 2)) := rfl
theorem exec_shlVxVy (x y : Reg) (s : State) : exec (.shlVxVy x y) s =
    .next ((s.writeFlagged x (shiftLeft (s.shiftSource x y)) (shiftLeftFlag (s.shiftSource x y))).setPc (s.pc + 2)) := rfl
theorem exec_rndVxNn (x : Reg) (nn : Byte) (s : State) :
    exec (.rndVxNn x nn) s = .next ((s.setReg x (s.stepInput.rand &&& nn)).setPc (s.pc + 2)) := rfl
theorem exec_ldINnn (nnn : Addr) (s : State) :
    exec (.ldINnn nnn) s = .next ((s.setI (addrWord nnn)).setPc (s.pc + 2)) := rfl
theorem exec_addIVx (x : Reg) (s : State) :
    exec (.addIVx x) s = .next ((s.setI (sat16 (s.I.toNat + (s.reg x).toNat))).setPc (s.pc + 2)) := rfl
theorem exec_ldFVx (x : Reg) (s : State) :
    exec (.ldFVx x) s = .next ((s.setI (glyphAddress (s.reg x))).setPc (s.pc + 2)) := rfl
theorem exec_ldVxDt (x : Reg) (s : State) : exec (.ldVxDt x) s = .next ((s.setReg x s.DT).setPc (s.pc + 2)) := rfl
theorem exec_ldDtVx (x : Reg) (s : State) : exec (.ldDtVx x) s = .next ((s.setDT (s.reg x)).setPc (s.pc + 2)) := rfl
theorem exec_ldStVx (x : Reg) (s : State) : exec (.ldStVx x) s = .next ((s.setST (s.reg x)).setPc (s.pc + 2)) := rfl
theorem exec_unmatched (w : Word) (s : State) : exec (.unmatched w) s = .next (s.setPc (s.pc + 2)) := rfl

/-! ## The key instructions, by the pending key -/

theorem exec_skpVx (x : Reg) (s : State) : exec (.skpVx x) s =
    .next (s.setPc (if s.pendingKey.any (fun k => keyByte k == s.reg x) then s.pc + 4 else s.pc + 2)) := by
  show execSkpVx x s = _
  unfold execSkpVx
  cases s.pendingKey <;> rfl

theorem exec_sknpVx (x : Reg) (s : State) : exec (.sknpVx x) s =
    .next (s.setPc (if s.pendingKey.any (fun k => keyByte k != s.reg x) then s.pc + 4 else s.pc + 2)) := by
  show execSknpVx x s = _
  unfold execSknpVx
  cases s.pendingKey <;> rfl

theorem exec_ldVxK_key (x : Reg) (s : State) (k : Nibble) (h : s.pendingKey = some k) :
    exec (.ldVxK x) s = .next (((s.setReg x (keyByte k)).setKeyPending false).setPc (s.pc + 2)) := by
  show execLdVxK x s = _
  unfold execLdVxK
  rw [h]; rfl

theorem exec_ldVxK_wait (x : Reg) (s : State) (h : s.pendingKey = none) :
    exec (.ldVxK x) s = .next (s.setPc s.pc) := by
  show execLdVxK x s = _
  unfold execLdVxK
  rw [h]; rfl

/-! ## The stack instructions -/

theorem exec_ret_empty (s : State) (h : s.stack = []) : exec .ret s = .fault (.stackUnderflow s.pc) := by
  show execRet s = _
  unfold execRet
  rw [h]; rfl

theorem exec_ret_top (s : State) (st : List Word) (a : Word) (h : s.stack = st ++ [a]) :
    exec .ret s = .next (s.dropTop.setPc (a + 2)) := by
  show execRet s = _
  unfold execRet
  rw [h, List.getLast?_concat]; rfl

theorem exec_callNnn_full (nnn : Addr) (s : State) (h : s.config.stackDepth = some s.stack.length) :
    exec (.callNnn nnn) s = .fault (.stackOverflow s.pc) := by
  show execCallNnn nnn s = _
  simp [execCallNnn, State.stackFull, h]

theorem exec_callNnn_room (nnn : Addr) (s : State) (h : s.config.stackDepth ≠ some s.stack.length) :
    exec (.callNnn nnn) s = .next ((s.push s.pc).setPc (addrWord nnn)) := by
  show execCallNnn nnn s = _
  simp [execCallNnn, State.stackFull, h]

/-! ## The memory instructions -/

theorem exec_ldBVx_ok (x : Reg) (s : State) (h : s.I.toNat + 3 ≤ memSize) :
    exec (.ldBVx x) s = .next ((s.writeBytes s.I.toNat (bcdDigits (s.reg x))).setPc (s.pc + 2)) := by
  show execLdBVx x s = _
  unfold execLdBVx
  rw [s.withBounds_ok _ _ (.inr h)]; rfl

theorem exec_ldMemVx_ok (x : Reg) (s : State) (h : s.I.toNat + (x.val + 1) ≤ memSize) :
    exec (.ldMemVx x) s =
      .next (((s.writeBytes s.I.toNat (s.regsUpTo x)).setI (s.blockIndex x)).setPc (s.pc + 2)) := by
  show execLdMemVx x s = _
  unfold execLdMemVx
  rw [s.withBounds_ok _ _ (.inr h)]; rfl

theorem exec_ldVxMem_ok (x : Reg) (s : State) (h : s.I.toNat + (x.val + 1) ≤ memSize) :
    exec (.ldVxMem x) s = .next (((s.loadRegs x s.I.toNat).setI (s.blockIndex x)).setPc (s.pc + 2)) := by
  show execLdVxMem x s = _
  unfold execLdVxMem
  rw [s.withBounds_ok _ _ (.inr h)]; rfl

theorem exec_drwVxVyN_ok (x y : Reg) (n : Nibble) (s : State) (h : n.val = 0 ∨ s.I.toNat + n.val ≤ memSize) :
    exec (.drwVxVyN x y n) s = .next (((s.setFB (s.drawSprite x y n).1).setReg flagReg
      (flagByte (s.drawSprite x y n).2)).setPc (s.pc + 2)) := by
  show execDrwVxVyN x y n s = _
  unfold execDrwVxVyN
  rw [s.withBounds_ok _ _ h]; rfl

/-- The four memory instructions fault alike: when the access is not empty and ends above memory. -/
theorem exec_bounds_fault (i : Instr) (s : State) (h : 0 < accessLength i ∧ memSize < s.I.toNat + accessLength i) :
    exec i s = .fault (.memoryBounds s.pc (max s.I.toNat memSize)) := by
  cases i <;> first | exact absurd h.1 (by decide) | exact s.withBounds_fault _ _ h

/-! ## Numbers behind the operands and flags -/

theorem addSat_toNat (a b : Byte) : (addSat a b).toNat = min (a.toNat + b.toNat) 255 := by
  simp only [addSat, sat8, BitVec.toNat_ofNat]; omega

theorem sat16_toNat (n : Nat) : (sat16 n).toNat = min n 65535 := by
  simp only [sat16, BitVec.toNat_ofNat]; omega

theorem flagByte_toNat (f : Bool) : (flagByte f).toNat = f.toNat := by cases f <;> rfl

theorem subClamp_toNat (a b : Byte) : (subClamp a b).toNat = a.toNat - b.toNat := by
  have := a.isLt
  simp only [subClamp, BitVec.toNat_ofNat]
  split <;> omega

theorem shiftRight_toNat (v : Byte) : (shiftRight v).toNat = v.toNat / 2 := by
  have := v.isLt
  simp only [shiftRight, BitVec.toNat_ofNat]; omega

theorem shiftLeft_toNat (v : Byte) : (shiftLeft v).toNat = v.toNat * 2 % 256 := by
  simp only [shiftLeft, BitVec.toNat_ofNat]; omega

theorem addrWord_toNat (nnn : Addr) : (addrWord nnn).toNat = nnn.toNat := by
  have := nnn.isLt
  simp only [addrWord, BitVec.toNat_ofNat]; omega

theorem keyByte_toNat (k : Nibble) : (keyByte k).toNat = k.val := by
  have := k.isLt
  simp only [keyByte, BitVec.toNat_ofNat]; omega

theorem glyphAddress_toNat (v : Byte) : (glyphAddress v).toNat = v.toNat % 16 * 5 := by
  simp only [glyphAddress, BitVec.toNat_ofNat]; omega

theorem offsetTarget_toNat (s : State) (nnn : Addr) :
    (s.offsetTarget nnn).toNat = nnn.toNat + (s.jumpOffset nnn).toNat := by
  have := nnn.isLt
  have := (s.jumpOffset nnn).isLt
  simp only [State.offsetTarget, BitVec.toNat_ofNat]; omega

end Sys2Proof.Machine
end

