-- ==== Sys2Proof/Laws/Inv.lean ====
section
/-! SUPPORT. The invariant by its components: a state that differs from one of the invariant only in parts the invariant does not
speak of, pc apart, satisfies it too. -/

namespace Sys2Proof.Machine

theorem State.Inv.of_eq {s t : State} (hs : s.Inv) (hmem : t.mem = s.mem) (hconfig : t.config = s.config)
    (hstack : t.stack = s.stack) (hpending : t.keyPending = s.keyPending) (hkey : t.key = s.key)
    (hpc : t.pc.toNat ≤ 0x10FE) : t.Inv := by
  obtain ⟨m, _, st, k, f⟩ := hs
  exact ⟨by rw [hmem, hconfig]; exact m, hpc, by rw [hstack]; exact st, by rw [hpending, hkey]; exact k,
    by rw [hconfig, hstack]; exact f⟩

end Sys2Proof.Machine
end

