-- ==== Sys2Proof/Laws/PerInstr.lean ====
section
/-! SUPPORT. Statements about every instruction as syntax, one lemma per constructor. -/

namespace Sys2Proof.Laws

/-- A word whose nibbles 0 and 3 are fixed matches a row with mask F00F. -/
theorem matches_F00F (m : String) (v w : Word) (h0 : nibble0 w = nibble0 v) (h1 : nibble1 v = 0) (h2 : nibble2 v = 0)
    (h3 : nibble3 w = nibble3 v) : OpcodeRow.Matches ⟨m, v, 0xF00F⟩ w := by
  rw [matches_iff_nibbles]
  have e0 : nibble0 (0xF00F : Word) = 15 := by decide
  have e1 : nibble1 (0xF00F : Word) = 0 := by decide
  have e2 : nibble2 (0xF00F : Word) = 0 := by decide
  have e3 : nibble3 (0xF00F : Word) = 15 := by decide
  simp only [e0, e1, e2, e3, h1, h2, Nat.and_zero, h0, h3, nibble_and_15 (nibble0_lt v), nibble_and_15 (nibble3_lt v), and_self]

/-- A word whose first nibble is fixed matches a row with mask F000. -/
theorem matches_F000 (m : String) (v w : Word) (h0 : nibble0 w = nibble0 v) (h1 : nibble1 v = 0) (h2 : nibble2 v = 0)
    (h3 : nibble3 v = 0) : OpcodeRow.Matches ⟨m, v, 0xF000⟩ w := by
  rw [matches_iff_nibbles]
  have e0 : nibble0 (0xF000 : Word) = 15 := by decide
  have e1 : nibble1 (0xF000 : Word) = 0 := by decide
  have e2 : nibble2 (0xF000 : Word) = 0 := by decide
  have e3 : nibble3 (0xF000 : Word) = 0 := by decide
  simp only [e0, e1, e2, e3, h1, h2, h3, Nat.and_zero, nibble_and_15 (nibble0_lt v), h0, and_self]

/-- A word whose first nibble and low byte are fixed matches a row with mask F0FF. -/
theorem matches_F0FF (m : String) (v w : Word) (h0 : nibble0 w = nibble0 v) (h1 : nibble1 v = 0)
    (hb : bitField w 7 0 = bitField v 7 0) : OpcodeRow.Matches ⟨m, v, 0xF0FF⟩ w := by
  have := nibble2_lt w
  have := nibble2_lt v
  have := nibble3_lt w
  have := nibble3_lt v
  rw [lowByte_eq_nibbles, lowByte_eq_nibbles] at hb
  rw [matches_iff_nibbles]
  have e0 : nibble0 (0xF0FF : Word) = 15 := by decide
  have e1 : nibble1 (0xF0FF : Word) = 0 := by decide
  have e2 : nibble2 (0xF0FF : Word) = 15 := by decide
  have e3 : nibble3 (0xF0FF : Word) = 15 := by decide
  simp only [e0, e1, e2, e3, h1, Nat.and_zero, nibble_and_15 (nibble2_lt w),
    nibble_and_15 (nibble3_lt w), nibble_and_15 (nibble0_lt v), h0, true_and]
  omega

/-- The word an instruction is encoded as matches the row of the opcode table that bears the instruction's mnemonic
(spec/30_encoding.md R70): every fixed hex digit of the pattern is in it. -/
def EncodingMatchesRow.Statement (i : Instr) : Prop :=
  match opcodeTable.find? (fun r => r.mnemonic == i.mnemonic) with
  | some r => r.Matches (encode i)
  | none => True

theorem EncodingMatchesRow.cls : EncodingMatchesRow.Statement .cls := by
  show OpcodeRow.Matches ⟨"CLS", 0x00E0, 0xFFFF⟩ _
  decide
theorem EncodingMatchesRow.ret : EncodingMatchesRow.Statement .ret := by
  show OpcodeRow.Matches ⟨"RET", 0x00EE, 0xFFFF⟩ _
  decide
theorem EncodingMatchesRow.jpNnn (nnn : Addr) : EncodingMatchesRow.Statement (.jpNnn nnn) :=
  matches_F000 _ _ _ (fields_encodeNNN 0x1 nnn (by decide)).1 (by decide) (by decide) (by decide)
theorem EncodingMatchesRow.callNnn (nnn : Addr) : EncodingMatchesRow.Statement (.callNnn nnn) :=
  matches_F000 _ _ _ (fields_encodeNNN 0x2 nnn (by decide)).1 (by decide) (by decide) (by decide)
theorem EncodingMatchesRow.seVxNn (x : Reg) (nn : Byte) : EncodingMatchesRow.Statement (.seVxNn x nn) :=
  matches_F000 _ _ _ (fields_encodeXNN 0x3 x nn (by decide)).1 (by decide) (by decide) (by decide)
theorem EncodingMatchesRow.sneVxNn (x : Reg) (nn : Byte) : EncodingMatchesRow.Statement (.sneVxNn x nn) :=
  matches_F000 _ _ _ (fields_encodeXNN 0x4 x nn (by decide)).1 (by decide) (by decide) (by decide)
theorem EncodingMatchesRow.seVxVy (x y : Reg) : EncodingMatchesRow.Statement (.seVxVy x y) :=
  matches_F00F _ _ _ (fields_encodeXYN 0x5 x y 0x0 (by decide) (by decide)).1 (by decide) (by decide) (fields_encodeXYN 0x5 x y 0x0 (by decide) (by decide)).2.2.2
theorem EncodingMatchesRow.ldVxNn (x : Reg) (nn : Byte) : EncodingMatchesRow.Statement (.ldVxNn x nn) :=
  matches_F000 _ _ _ (fields_encodeXNN 0x6 x nn (by decide)).1 (by decide) (by decide) (by decide)
theorem EncodingMatchesRow.addVxNn (x : Reg) (nn : Byte) : EncodingMatchesRow.Statement (.addVxNn x nn) :=
  matches_F000 _ _ _ (fields_encodeXNN 0x7 x nn (by decide)).1 (by decide) (by decide) (by decide)
theorem EncodingMatchesRow.ldVxVy (x y : Reg) : EncodingMatchesRow.Statement (.ldVxVy x y) :=
  matches_F00F _ _ _ (fields_encodeXYN 0x8 x y 0x0 (by decide) (by decide)).1 (by decide) (by decide) (fields_encodeXYN 0x8 x y 0x0 (by decide) (by decide)).2.2.2
theorem EncodingMatchesRow.orVxVy (x y : Reg) : EncodingMatchesRow.Statement (.orVxVy x y) :=
  matches_F00F _ _ _ (fields_encodeXYN 0x8 x y 0x1 (by decide) (by decide)).1 (by decide) (by decide) (fields_encodeXYN 0x8 x y 0x1 (by decide) (by decide)).2.2.2
theorem EncodingMatchesRow.andVxVy (x y : Reg) : EncodingMatchesRow.Statement (.andVxVy x y) :=
  matches_F00F _ _ _ (fields_encodeXYN 0x8 x y 0x2 (by decide) (by decide)).1 (by decide) (by decide) (fields_encodeXYN 0x8 x y 0x2 (by decide) (by decide)).2.2.2
theorem EncodingMatchesRow.xorVxVy (x y : Reg) : EncodingMatchesRow.Statement (.xorVxVy x y) :=
  matches_F00F _ _ _ (fields_encodeXYN 0x8 x y 0x3 (by decide) (by decide)).1 (by decide) (by decide) (fields_encodeXYN 0x8 x y 0x3 (by decide) (by decide)).2.2.2
theorem EncodingMatchesRow.addVxVy (x y : Reg) : EncodingMatchesRow.Statement (.addVxVy x y) :=
  matches_F00F _ _ _ (fields_encodeXYN 0x8 x y 0x4 (by decide) (by decide)).1 (by decide) (by decide) (fields_encodeXYN 0x8 x y 0x4 (by decide) (by decide)).2.2.2
theorem EncodingMatchesRow.subVxVy (x y : Reg) : EncodingMatchesRow.Statement (.subVxVy x y) :=
  matches_F00F _ _ _ (fields_encodeXYN 0x8 x y 0x5 (by decide) (by decide)).1 (by decide) (by decide) (fields_encodeXYN 0x8 x y 0x5 (by decide) (by decide)).2.2.2
theorem EncodingMatchesRow.shrVxVy (x y : Reg) : EncodingMatchesRow.Statement (.shrVxVy x y) :=
  matches_F00F _ _ _ (fields_encodeXYN 0x8 x y 0x6 (by decide) (by decide)).1 (by decide) (by decide) (fields_encodeXYN 0x8 x y 0x6 (by decide) (by decide)).2.2.2
theorem EncodingMatchesRow.subnVxVy (x y : Reg) : EncodingMatchesRow.Statement (.subnVxVy x y) :=
  matches_F00F _ _ _ (fields_encodeXYN 0x8 x y 0x7 (by decide) (by decide)).1 (by decide) (by decide) (fields_encodeXYN 0x8 x y 0x7 (by decide) (by decide)).2.2.2
theorem EncodingMatchesRow.shlVxVy (x y : Reg) : EncodingMatchesRow.Statement (.shlVxVy x y) :=
  matches_F00F _ _ _ (fields_encodeXYN 0x8 x y 0xE (by decide) (by decide)).1 (by decide) (by decide) (fields_encodeXYN 0x8 x y 0xE (by decide) (by decide)).2.2.2
theorem EncodingMatchesRow.sneVxVy (x y : Reg) : EncodingMatchesRow.Statement (.sneVxVy x y) :=
  matches_F00F _ _ _ (fields_encodeXYN 0x9 x y 0x0 (by decide) (by decide)).1 (by decide) (by decide) (fields_encodeXYN 0x9 x y 0x0 (by decide) (by decide)).2.2.2
theorem EncodingMatchesRow.ldINnn (nnn : Addr) : EncodingMatchesRow.Statement (.ldINnn nnn) :=
  matches_F000 _ _ _ (fields_encodeNNN 0xA nnn (by decide)).1 (by decide) (by decide) (by decide)
theorem EncodingMatchesRow.jpV0Nnn (nnn : Addr) : EncodingMatchesRow.Statement (.jpV0Nnn nnn) :=
  matches_F000 _ _ _ (fields_encodeNNN 0xB nnn (by decide)).1 (by decide) (by decide) (by decide)
theorem EncodingMatchesRow.rndVxNn (x : Reg) (nn : Byte) : EncodingMatchesRow.Statement (.rndVxNn x nn) :=
  matches_F000 _ _ _ (fields_encodeXNN 0xC x nn (by decide)).1 (by decide) (by decide) (by decide)
theorem EncodingMatchesRow.drwVxVyN (x y : Reg) (n : Nibble) : EncodingMatchesRow.Statement (.drwVxVyN x y n) :=
  matches_F000 _ _ _ (fields_encodeXYN 0xD x y n.val (by decide) n.isLt).1 (by decide) (by decide) (by decide)
theorem EncodingMatchesRow.skpVx (x : Reg) : EncodingMatchesRow.Statement (.skpVx x) :=
  matches_F0FF _ _ _ (fields_encodeX 0xE x 0x9E (by decide) (by decide)).1 (by decide) (fields_encodeX 0xE x 0x9E (by decide) (by decide)).2.2
theorem EncodingMatchesRow.sknpVx (x : Reg) : EncodingMatchesRow.Statement (.sknpVx x) :=
  matches_F0FF _ _ _ (fields_encodeX 0xE x 0xA1 (by decide) (by decide)).1 (by decide) (fields_encodeX 0xE x 0xA1 (by decide) (by decide)).2.2
theorem EncodingMatchesRow.ldVxDt (x : Reg) : EncodingMatchesRow.Statement (.ldVxDt x) :=
  matches_F0FF _ _ _ (fields_encodeX 0xF x 0x07 (by decide) (by decide)).1 (by decide) (fields_encodeX 0xF x 0x07 (by decide) (by decide)).2.2
theorem EncodingMatchesRow.ldVxK (x : Reg) : EncodingMatchesRow.Statement (.ldVxK x) :=
  matches_F0FF _ _ _ (fields_encodeX 0xF x 0x0A (by decide) (by decide)).1 (by decide) (fields_encodeX 0xF x 0x0A (by decide) (by decide)).2.2
theorem EncodingMatchesRow.ldDtVx (x : Reg) : EncodingMatchesRow.Statement (.ldDtVx x) :=
  matches_F0FF _ _ _ (fields_encodeX 0xF x 0x15 (by decide) (by decide)).1 (by decide) (fields_encodeX 0xF x 0x15 (by decide) (by decide)).2.2
theorem EncodingMatchesRow.ldStVx (x : Reg) : EncodingMatchesRow.Statement (.ldStVx x) :=
  matches_F0FF _ _ _ (fields_encodeX 0xF x 0x18 (by decide) (by decide)).1 (by decide) (fields_encodeX 0xF x 0x18 (by decide) (by decide)).2.2
theorem EncodingMatchesRow.addIVx (x : Reg) : EncodingMatchesRow.Statement (.addIVx x) :=
  matches_F0FF _ _ _ (fields_encodeX 0xF x 0x1E (by decide) (by decide)).1 (by decide) (fields_encodeX 0xF x 0x1E (by decide) (by decide)).2.2
theorem EncodingMatchesRow.ldFVx (x : Reg) : EncodingMatchesRow.Statement (.ldFVx x) :=
  matches_F0FF _ _ _ (fields_encodeX 0xF x 0x29 (by decide) (by decide)).1 (by decide) (fields_encodeX 0xF x 0x29 (by decide) (by decide)).2.2
theorem EncodingMatchesRow.ldBVx (x : Reg) : EncodingMatchesRow.Statement (.ldBVx x) :=
  matches_F0FF _ _ _ (fields_encodeX 0xF x 0x33 (by decide) (by decide)).1 (by decide) (fields_encodeX 0xF x 0x33 (by decide) (by decide)).2.2
theorem EncodingMatchesRow.ldMemVx (x : Reg) : EncodingMatchesRow.Statement (.ldMemVx x) :=
  matches_F0FF _ _ _ (fields_encodeX 0xF x 0x55 (by decide) (by decide)).1 (by decide) (fields_encodeX 0xF x 0x55 (by decide) (by decide)).2.2
theorem EncodingMatchesRow.ldVxMem (x : Reg) : EncodingMatchesRow.Statement (.ldVxMem x) :=
  matches_F0FF _ _ _ (fields_encodeX 0xF x 0x65 (by decide) (by decide)).1 (by decide) (fields_encodeX 0xF x 0x65 (by decide) (by decide)).2.2
theorem EncodingMatchesRow.unmatched (w : Word) : EncodingMatchesRow.Statement (.unmatched w) := trivial

end Sys2Proof.Laws
end

