-- ==== Sys2Proof/Tests/Slice0.lean ====
section
/-! SUPPORT. Tests of the model: the WellFormed smoke test, one word per constructor written out from the spec's patterns, and
single steps whose expected results are the vectors of spec/95_test_vectors.md (named in each comment), and a witness for the
hypotheses of each statement. -/

namespace Sys2Proof.Tests
open Sys2Proof Sys2Proof.Machine Sys2Proof.Statements

/-! ## WellFormed: an ill-formed term for the one check -/

/-- A word of the pattern 00E0 is not unmatched. -/
theorem test_wellFormed_refuses_matched_word : Instr.wellFormed (.unmatched 0x00E0) = false := by decide
/-- A word of the pattern 8XYE is not unmatched. -/
theorem test_wellFormed_refuses_matched_pattern : Instr.wellFormed (.unmatched 0x812E) = false := by decide
/-- DEC-3: 0x0123 is unmatched. -/
theorem test_wellFormed_accepts_unmatched : Instr.wellFormed (.unmatched 0x0123) = true := by decide

/-! ## Decoding: a word of every pattern, bit by bit from the encodings of spec/opcode_table.json -/

theorem test_decode_cls : decodeWord 0b0000_0000_1110_0000 = .cls := by decide
theorem test_decode_ret : decodeWord 0b0000_0000_1110_1110 = .ret := by decide
theorem test_decode_jpNnn : decodeWord 0b0001_0010_0011_0100 = .jpNnn 0x234 := by decide
theorem test_decode_callNnn : decodeWord 0b0010_0010_0000_1100 = .callNnn 0x20C := by decide
theorem test_decode_seVxNn : decodeWord 0b0011_1010_0100_0101 = .seVxNn 10 0x45 := by decide
theorem test_decode_sneVxNn : decodeWord 0b0100_0001_0001_0000 = .sneVxNn 1 0x10 := by decide
theorem test_decode_seVxVy : decodeWord 0b0101_0001_0010_0000 = .seVxVy 1 2 := by decide
theorem test_decode_ldVxNn : decodeWord 0b0110_1010_0000_0101 = .ldVxNn 10 5 := by decide
theorem test_decode_addVxNn : decodeWord 0b0111_0001_0000_1010 = .addVxNn 1 10 := by decide
theorem test_decode_ldVxVy : decodeWord 0b1000_0001_0010_0000 = .ldVxVy 1 2 := by decide
theorem test_decode_orVxVy : decodeWord 0b1000_0001_0010_0001 = .orVxVy 1 2 := by decide
theorem test_decode_andVxVy : decodeWord 0b1000_0001_0010_0010 = .andVxVy 1 2 := by decide
theorem test_decode_xorVxVy : decodeWord 0b1000_0001_0010_0011 = .xorVxVy 1 2 := by decide
theorem test_decode_addVxVy : decodeWord 0b1000_0001_0010_0100 = .addVxVy 1 2 := by decide
theorem test_decode_subVxVy : decodeWord 0b1000_0001_0010_0101 = .subVxVy 1 2 := by decide
theorem test_decode_shrVxVy : decodeWord 0b1000_0001_0010_0110 = .shrVxVy 1 2 := by decide
theorem test_decode_subnVxVy : decodeWord 0b1000_0001_0010_0111 = .subnVxVy 1 2 := by decide
theorem test_decode_shlVxVy : decodeWord 0b1000_0001_0010_1110 = .shlVxVy 1 2 := by decide
theorem test_decode_sneVxVy : decodeWord 0b1001_0001_0010_0000 = .sneVxVy 1 2 := by decide
theorem test_decode_ldINnn : decodeWord 0b1010_0011_0000_0001 = .ldINnn 0x301 := by decide
theorem test_decode_jpV0Nnn : decodeWord 0b1011_0010_0001_0000 = .jpV0Nnn 0x210 := by decide
theorem test_decode_rndVxNn : decodeWord 0b1100_0011_0000_1111 = .rndVxNn 3 0x0F := by decide
/-- DEC-1: 0xD12F. -/
theorem test_decode_drwVxVyN : decodeWord 0b1101_0001_0010_1111 = .drwVxVyN 1 2 15 := by decide
theorem test_decode_skpVx : decodeWord 0b1110_0001_1001_1110 = .skpVx 1 := by decide
theorem test_decode_sknpVx : decodeWord 0b1110_0001_1010_0001 = .sknpVx 1 := by decide
theorem test_decode_ldVxDt : decodeWord 0b1111_0001_0000_0111 = .ldVxDt 1 := by decide
theorem test_decode_ldVxK : decodeWord 0b1111_0001_0000_1010 = .ldVxK 1 := by decide
theorem test_decode_ldDtVx : decodeWord 0b1111_0001_0001_0101 = .ldDtVx 1 := by decide
theorem test_decode_ldStVx : decodeWord 0b1111_0001_0001_1000 = .ldStVx 1 := by decide
theorem test_decode_addIVx : decodeWord 0b1111_0001_0001_1110 = .addIVx 1 := by decide
theorem test_decode_ldFVx : decodeWord 0b1111_0001_0010_1001 = .ldFVx 1 := by decide
theorem test_decode_ldBVx : decodeWord 0b1111_0001_0011_0011 = .ldBVx 1 := by decide
theorem test_decode_ldMemVx : decodeWord 0b1111_0001_0101_0101 = .ldMemVx 1 := by decide
theorem test_decode_ldVxMem : decodeWord 0b1111_0001_0110_0101 = .ldVxMem 1 := by decide
/-- DEC-3, DEC-4: unmatched words, one of each class of R73. -/
theorem test_decode_unmatched : [0x0000#16, 0x00E1, 0x0123, 0x5121, 0x9123, 0x8128, 0x812F, 0xE19F, 0xF10B, 0xF166].map decodeWord
    = [.unmatched 0x0000, .unmatched 0x00E1, .unmatched 0x0123, .unmatched 0x5121, .unmatched 0x9123, .unmatched 0x8128,
      .unmatched 0x812F, .unmatched 0xE19F, .unmatched 0xF10B, .unmatched 0xF166] := by decide
/-- The host's numbering: one 16-bit word, big-endian in memory. -/
theorem test_decodeTableWord : decodeTableWord 16 0xD12F = some (.drwVxVyN 1 2 15) := by decide
/-- A lone byte is no instruction (R52). -/
theorem test_decodeBytes_truncated : decodeBytes [0x12] = .error .truncated := by rfl

/-! ## Single steps -/

/-- A small start: reset, pc = 0x300, a host that supplies ticks = 0 and rand = 0. -/
def start : State := { State.reset with pc := 0x300, inputs := [{ ticks := 0, rand := 0 }] }
/-- The start with some registers set. -/
def startV (l : List (Reg × Byte)) : State := l.foldl (fun s p => s.setReg p.1 p.2) start
/-- The same in quirk mode. -/
def quirky (s : State) : State := { s with config := { s.config with quirk := true } }
/-- The state after one step that executes the word `w`, when the step completes. -/
def after (s : State) (w : Nat) : Option State :=
  match step (s.withFetchWord 16 w) with
  | .next t => some t
  | _ => none
/-- The fault of one step that executes the word `w`. -/
def faultAfter (s : State) (w : Nat) : Option Fault :=
  match step (s.withFetchWord 16 w) with
  | .fault f => some f
  | _ => none

/-- DRW-1. -/
theorem test_cls : (after { startV [(15, 1)] with FB := FrameBuffer.cleared.toggle 3 4 } 0x00E0).map
    (fun t => (t.FB.get 3 4, t.reg 15, t.pc)) = some (false, 1, 0x302) := by decide
/-- FLW-3. -/
theorem test_ret : (after { start with stack := [0x300, 0x204] } 0x00EE).map (fun t => (t.stack, t.pc))
    = some ([0x300], 0x206) := by decide
/-- FLT-2. -/
theorem test_ret_underflow : faultAfter start 0x00EE = some (.stackUnderflow 0x300) := by decide
/-- FLW-4. -/
theorem test_jpNnn : (after start 0x1201).map (·.pc) = some 0x201 := by decide
/-- FLW-1, at 0x204. -/
theorem test_callNnn : (after { start with pc := 0x204 } 0x220C).map (fun t => (t.stack, t.pc)) = some ([0x204], 0x20C) := by decide
/-- FLW-7. -/
theorem test_callNnn_overflow : faultAfter { start with
      pc := 0x208, stack := [0x200, 0x204], config := { Config.default with stackDepth := some 2 } } 0x2300 = some (.stackOverflow 0x208) := by decide
/-- FLW-10, FLW-8. -/
theorem test_jpV0Nnn_legacy : ((after (startV [(3, 4), (0, 9)]) 0xB300).map (·.pc), (after (startV [(0, 0xFF)]) 0xBFFF).map (·.pc))
    = (some 0x309, some 0x10FE) := by decide
/-- FLW-9. -/
theorem test_jpV0Nnn_quirk : (after (quirky (startV [(3, 4), (0, 9)])) 0xB300).map (·.pc) = some 0x304 := by decide
/-- FLW-11, at 0x206. -/
theorem test_seVxNn : ((after { startV [(3, 3)] with pc := 0x206 } 0x3303).map (·.pc),
    (after { startV [(3, 3)] with pc := 0x206 } 0x3302).map (·.pc)) = (some 0x20A, some 0x208) := by decide
/-- FLW-12. -/
theorem test_sneVxNn : ((after (startV [(1, 0x10)]) 0x4110).map (·.pc), (after (startV [(1, 0x10)]) 0x4111).map (·.pc))
    = (some 0x302, some 0x304) := by decide
/-- FLW-13, FLW-15. -/
theorem test_seVxVy : ((after (startV [(1, 9)]) 0x5110).map (·.pc), (after (startV [(1, 7), (2, 8)]) 0x5120).map (·.pc))
    = (some 0x304, some 0x302) := by decide
/-- FLW-14, FLW-15. -/
theorem test_sneVxVy : ((after (startV [(1, 9)]) 0x9110).map (·.pc), (after (startV [(1, 7), (2, 8)]) 0x9120).map (·.pc))
    = (some 0x302, some 0x304) := by decide
/-- ALU-1. -/
theorem test_ldVxNn : (after start 0x6FAB).map (fun t => (t.reg 15, t.pc)) = some (0xAB, 0x302) := by decide
/-- L1-5, ALU-2. -/
theorem test_addVxNn_saturates : (after (startV [(1, 250), (15, 7)]) 0x710A).map (fun t => (t.reg 1, t.reg 15)) = some (255, 7) := by decide
/-- ALU-5. -/
theorem test_ldVxVy : (after (startV [(2, 9)]) 0x8120).map (·.reg 1) = some 9 := by decide
/-- ALU-6. -/
theorem test_orVxVy : (after (startV [(1, 0x0F), (2, 0xF0), (15, 1)]) 0x8121).map (fun t => (t.reg 1, t.reg 15)) = some (0xFF, 1) := by decide
/-- ALU-7. -/
theorem test_andVxVy : (after (startV [(1, 0x3C), (2, 0x0F), (15, 1)]) 0x8122).map (fun t => (t.reg 1, t.reg 15)) = some (0x0C, 1) := by decide
/-- R120's example. -/
theorem test_xorVxVy : (after (startV [(1, 0x3C), (2, 0x0F)]) 0x8123).map (·.reg 1) = some 0x33 := by decide
/-- ALU-10, ALU-11. -/
theorem test_addVxVy_boundary : ((after (startV [(1, 200), (2, 55)]) 0x8124).map (fun t => (t.reg 1, t.reg 15)),
    (after (startV [(1, 200), (2, 56)]) 0x8124).map (fun t => (t.reg 1, t.reg 15))) = (some (255, 0), some (255, 1)) := by decide
/-- ALU-14, ALU-15: VF as destination and as source. -/
theorem test_addVxVy_vf : ((after (startV [(15, 200), (1, 100)]) 0x8F14).map (·.reg 15),
    (after (startV [(1, 5), (15, 1)]) 0x81F4).map (fun t => (t.reg 1, t.reg 15))) = (some 1, some (6, 0)) := by decide
/-- L1-7, ALU-16. -/
theorem test_subVxVy : ((after (startV [(1, 5), (2, 10)]) 0x8125).map (fun t => (t.reg 1, t.reg 15)),
    (after (startV [(1, 7), (2, 7)]) 0x8125).map (fun t => (t.reg 1, t.reg 15))) = (some (0, 0), some (0, 0)) := by decide
/-- L1-7, ALU-19. -/
theorem test_subVxVy_flag : ((after (startV [(1, 10), (2, 5)]) 0x8125).map (fun t => (t.reg 1, t.reg 15)),
    (after (startV [(15, 10), (1, 3)]) 0x8F15).map (·.reg 15)) = (some (5, 1), some 1) := by decide
/-- ALU-21, ALU-22. -/
theorem test_subnVxVy : ((after (startV [(1, 3), (2, 10)]) 0x8127).map (fun t => (t.reg 1, t.reg 15)),
    (after (startV [(1, 10), (2, 3)]) 0x8127).map (fun t => (t.reg 1, t.reg 15))) = (some (7, 1), some (0, 0)) := by decide
/-- ALU-24, ALU-25. -/
theorem test_shrVxVy : ((after (startV [(1, 0x81), (2, 0xFF)]) 0x8126).map (fun t => (t.reg 1, t.reg 15)),
    (after (quirky (startV [(1, 0x81), (2, 0xFF)])) 0x8126).map (fun t => (t.reg 1, t.reg 15))) = (some (0x40, 1), some (0x7F, 1)) := by decide
/-- ALU-31, ALU-32. -/
theorem test_shlVxVy : ((after (startV [(1, 0x80)]) 0x810E).map (fun t => (t.reg 1, t.reg 15)),
    (after (quirky (startV [(1, 0x33), (2, 0x40)])) 0x812E).map (fun t => (t.reg 1, t.reg 15))) = (some (0, 1), some (0x80, 0)) := by decide
/-- ALU-34. -/
theorem test_rndVxNn : (after { start with inputs := [{ ticks := 0, rand := 0xB7 }] } 0xC30F).map (·.reg 3) = some 0x07 := by decide
/-- MEM-1. -/
theorem test_ldINnn : (after start 0xAFFF).map (·.I) = some 0x0FFF := by decide
/-- MEM-3, MEM-4. -/
theorem test_addIVx : ((after { startV [(0, 1), (15, 5)] with I := 0xFFF } 0xF01E).map (fun t => (t.I, t.reg 15)),
    (after { startV [(0, 0x20)] with I := 0xFFF0 } 0xF01E).map (·.I)) = (some (0x1000, 5), some 0xFFFF) := by decide
/-- MEM-6. -/
theorem test_ldFVx : (after (startV [(0, 0x1A)]) 0xF029).map (·.I) = some 50 := by decide
/-- MEM-8: 4093 is the largest I that does not fault. -/
theorem test_ldBVx : (after { startV [(0, 123)] with I := 4093 } 0xF033).map
    (fun t => (t.readByte 4093, t.readByte 4094, t.readByte 4095)) = some (1, 2, 3) := by decide
/-- MEM-9. -/
theorem test_ldBVx_bounds : faultAfter { startV [(0, 123)] with I := 0xFFE } 0xF033 = some (.memoryBounds 0x300 0x1000) := by decide
/-- MEM-10 at 0x310, MEM-18 (the font is writable). -/
theorem test_ldMemVx_legacy : ((after { startV [(0, 1), (1, 2)] with I := 0x310 } 0xF155).map (fun t => (t.readByte 0x310, t.readByte 0x311, t.I)),
    (after { startV [(0, 0xAA)] with I := 0x10 } 0xF055).map (·.readByte 0x10)) = (some (1, 2, 0x312), some 0xAA) := by decide
/-- MEM-11 at 0x310. -/
theorem test_ldMemVx_quirk : (after { quirky (startV [(0, 1), (1, 2)]) with I := 0x310 } 0xF155).map
    (fun t => (t.readByte 0x310, t.readByte 0x311, t.I)) = some (1, 2, 0x310) := by decide
/-- MEM-14 at 0x310. -/
theorem test_ldVxMem_legacy : (after { start.writeBytes 0x310 [2, 5, 4] with I := 0x310 } 0xF265).map
    (fun t => (t.reg 0, t.reg 1, t.reg 2, t.reg 3, t.I)) = some (2, 5, 4, 0, 0x313) := by decide
/-- MEM-16 at 0x310. -/
theorem test_ldVxMem_quirk : (after { (quirky start).writeBytes 0x31F [0x99] with I := 0x310 } 0xFF65).map
    (fun t => (t.reg 15, t.I)) = some (0x99, 0x310) := by decide
/-- DRW-8: clipping at the right edge, a collision. -/
theorem test_drwVxVyN_clip : (after { (startV [(0, 62)]).writeBytes 0x310 [0xFF] with I := 0x310, FB := FrameBuffer.cleared.toggle 0 63 } 0xD011).map
    (fun t => (t.FB.get 0 62, t.FB.get 0 63, t.FB.get 0 0, t.reg 15)) = some (true, false, false, 1) := by decide
/-- DRW-6: the rows below the screen are checked. -/
theorem test_drwVxVyN_bounds : faultAfter { startV [(1, 31)] with I := 0xFFE } 0xD013 = some (.memoryBounds 0x300 0x1000) := by decide
/-- KEY-1, KEY-3. -/
theorem test_skpVx : ((after ((startV [(1, 5)]).setKey 5) 0xE19E).map (fun t => (t.pc, t.keyPending)),
    (after (startV [(1, 5)]) 0xE19E).map (·.pc)) = (some (0x304, false), some 0x302) := by decide
/-- KEY-4, KEY-6. -/
theorem test_sknpVx : ((after ((startV [(1, 6)]).setKey 5) 0xE1A1).map (·.pc), (after (startV [(1, 5)]) 0xE1A1).map (·.pc))
    = (some 0x304, some 0x302) := by decide
/-- TMR-1. -/
theorem test_ldVxDt : (after { start with DT := 7, inputs := [{ ticks := 3, rand := 0 }] } 0xF107).map (fun t => (t.reg 1, t.DT))
    = some (7, 4) := by decide
/-- KEY-9. -/
theorem test_ldVxK : (after (start.setKey 9) 0xFF0A).map (fun t => (t.reg 15, t.pc, t.keyPending)) = some (9, 0x302, false) := by decide
/-- KEY-10. -/
theorem test_ldVxK_waits : (after { start with DT := 10, inputs := [{ ticks := 4, rand := 0 }] } 0xF30A).map (fun t => (t.pc, t.DT))
    = some (0x300, 6) := by decide
/-- TMR-2. -/
theorem test_ldDtVx : (after { startV [(0, 7)] with inputs := [{ ticks := 2, rand := 0 }] } 0xF015).map (·.DT) = some 5 := by decide
/-- TMR-3. -/
theorem test_ldStVx : (after { startV [(0, 30)] with inputs := [{ ticks := 1, rand := 0 }] } 0xF018).map (·.ST) = some 29 := by decide
/-- CYC-1. -/
theorem test_unmatched : (after { start.setKey 4 with DT := 5, ST := 1, inputs := [{ ticks := 2, rand := 0 }] } 0x5121).map
    (fun t => (t.pc, t.keyPending, t.key, t.DT, t.ST)) = some (0x302, false, some 4, 3, 0) := by decide

/-! ## The step and the transactions -/

/-- DEC-7. -/
theorem test_fetch_fault : (match step { start with pc := 0xFFF } with | .fault f => some f | _ => none)
    = some (.decodeFault 0xFFF) := by decide
/-- CYC-2. -/
theorem test_paused : (match step { start with paused := true, DT := 5, inputs := [{ ticks := 9, rand := 0 }] } with
    | .next t => some (t.pc, t.DT) | _ => none) = some (0x300, 5) := by decide
/-- CYC-8. -/
theorem test_exportPixels : ({ start with FB := FrameBuffer.cleared.toggle 1 2 }.exportPixels)[66]? = some true := by decide
/-- RST-1, a part. -/
theorem test_resetProgram : (fun t : State => (t.reg 1, t.pc, t.stack, t.key, t.readByte 0x200, t.readByte 0x900, t.readByte 0))
    (runTransaction (.reset [0x12, 0x00] 0) ({ startV [(1, 5)] with stack := [0x204], key := some 4 }.writeBytes 0x900 [0x55])).1
    = (0, 0x200, [], some 4, 0x12, 0, 0xF0) := by decide
/-- TMR-7, the last step: at 5/100 s with the reference at 1/60 s two units are due. -/
theorem test_elapsedTicks : { start with lastTick := 1 / 60 }.elapsedTicks (5 / 100) = 2 := by decide +kernel

/-! ## Witnesses: for every statement with hypotheses, a state and operands that meet them, clause by clause -/

/-- The start with the word `w` where the next step fetches. -/
def placed (w : Nat) : State := start.withFetchWord 16 w

theorem placed_runs (w : Nat) : Runs (placed w) := ⟨rfl, show (0x300 : Nat) + 1 < 4096 by decide⟩

theorem witness_DecodeOfEncode : Instr.wellFormed (.drwVxVyN 15 15 15) = true ∧ Instr.wellFormed (.jpNnn 0xFFF) = true ∧
    Instr.wellFormed (.unmatched 0xFFFF) = true := by decide
theorem witness_DecoderFollowsMaskAndMatch : ∃ r ∈ opcodeTable, r.Matches 0x812E := by decide
/-- R73: each class of unmatched words at a boundary of its range. -/
theorem witness_UnmatchedClass : [0x0000#16, 0x00DF, 0x0FFF, 0x5121, 0x9FFF, 0x8008, 0x8FFD, 0x8FFF, 0xEF9D, 0xE0A2, 0xF006, 0xFFFF].Forall
    UnmatchedClass := by
  refine ⟨?_, ?_, ?_, ?_, ?_, ?_, ?_, ?_, ?_, ?_, ?_, ?_⟩ <;> (unfold UnmatchedClass; decide)
theorem witness_UnmatchedStep : Runs (placed 0x5121) ∧ UnmatchedClass (wordAtPc (placed 0x5121)) :=
  ⟨placed_runs _, by unfold UnmatchedClass; decide⟩
theorem witness_StepRuns_next : Runs (placed 0x6105) ∧ decodeWord (wordAtPc (placed 0x6105)) = .ldVxNn 1 5 ∧
    ∃ t, exec (.ldVxNn 1 5) (placed 0x6105) = .next t := ⟨placed_runs _, by decide, _, rfl⟩
theorem witness_StepRuns_fault : Runs (placed 0x00EE) ∧ decodeWord (wordAtPc (placed 0x00EE)) = .ret ∧
    exec .ret (placed 0x00EE) = .fault (.stackUnderflow 0x300) := ⟨placed_runs _, by decide, rfl⟩
theorem witness_Paused : { start with paused := true }.paused = true := rfl
/-- R145 at both sides of its boundary: pc = 4095 faults, pc = 4094 does not. -/
theorem witness_DecodeFault : step { start with pc := 4095 } = .fault (.decodeFault 4095) ∧
    ∃ t, step { start with pc := 4094 } = .next t := ⟨rfl, _, rfl⟩
theorem witness_Timers : (∃ t, step (placed 0xF115) = .next t) ∧ decodeWord (wordAtPc (placed 0xF115)) = .ldDtVx 1 ∧
    (∃ t, step (placed 0xF118) = .next t) ∧ decodeWord (wordAtPc (placed 0xF118)) = .ldStVx 1 ∧
    ∃ t, runTransaction (.step { ticks := 1, rand := 0 }) (placed 0x00EE) = (t, .fault (.stackUnderflow 0x300)) :=
  ⟨⟨_, rfl⟩, by decide, ⟨_, rfl⟩, by decide, _, rfl⟩
/-- TMR-7: five steps 1/100 s apart sum to 3 ticks at 5/100 s. -/
theorem witness_TicksSum : (placed 0x5121).paused = false ∧
    ((placed 0x5121).lastTick :: ([(1 / 100, 0), (2 / 100, 0), (3 / 100, 0), (4 / 100, 0)] ++ [((5 / 100 : Time), (0 : Byte))]).map Prod.fst).Pairwise
      (· ≤ ·) ∧
    (runAt ([(1 / 100, 0), (2 / 100, 0), (3 / 100, 0), (4 / 100, 0)] ++ [(5 / 100, 0)]) (placed 0x5121)).map Prod.snd = some 3 := by
  decide +kernel
theorem witness_KeyVisible : Runs ((placed 0x6105).setKey 9) ∧ ∃ t, step ((placed 0x6105).setKey 9) = .next t :=
  ⟨placed_runs 0x6105, _, rfl⟩
theorem witness_StepKeepsInvariant : (placed 0x2300).Inv ∧ ∃ t, step (placed 0x2300) = .next t :=
  ⟨⟨by decide, by decide, (fun _ h => nomatch h), by decide, (fun _ h => nomatch h)⟩, _, rfl⟩
theorem witness_Reachable : Reachable (runTransactions [.reset [0x61, 0x05] 0, .setKey 3, .step { ticks := 1, rand := 7 }]
    (State.construct Config.default 0)) := ⟨_, _, _, rfl⟩
/-- A form that stores, one that loads, one that draws, and one that writes a register only. -/
theorem witness_Frame : (∃ t, exec (.ldMemVx 1) start = .next t) ∧ (∃ t, exec (.ldVxMem 1) start = .next t) ∧
    (∃ t, exec (.drwVxVyN 1 2 3) start = .next t) ∧ ∃ t, exec (.ldVxDt 1) start = .next t :=
  ⟨⟨_, rfl⟩, ⟨_, rfl⟩, ⟨_, rfl⟩, _, rfl⟩
theorem witness_FlagWriters : writesFlag (.shlVxVy 15 2) ∧ ∃ t, exec (.shlVxVy 15 2) start = .next t := ⟨trivial, _, rfl⟩
theorem witness_OtherInstructionsAdvance : ¬ redirects (.ldVxK 1) ∧ Instr.ldVxK 1 ≠ .ret ∧ (start.setKey 9).pendingKey ≠ none ∧
    ∃ t, exec (.ldVxK 1) (start.setKey 9) = .next t := ⟨id, by decide, by decide, _, rfl⟩
theorem witness_Faults : exec .ret start = .fault (.stackUnderflow 0x300) ∧
    exec (.drwVxVyN 1 2 3) { start with I := 4094 } = .fault (.memoryBounds 0x300 4096) ∧
    exec (.callNnn 0x300) { start with config := { Config.default with stackDepth := some 0 } } = .fault (.stackOverflow 0x300) :=
  ⟨rfl, rfl, rfl⟩
theorem witness_Completes : faultCause (.ldBVx 1) { start with I := 4093 } = none := by simp [faultCause, accessLength, memSize]
theorem witness_ReturnOnEmptyStack : start.stack = [] := rfl
theorem witness_BoundsFault : ∃ k, k < accessLength (.ldMemVx 1) ∧ 4096 ≤ { start with I := 4095 }.I.toNat + k := ⟨1, by decide, by decide⟩
theorem witness_FaultLeavesTheState :
    (runTransaction (.step { ticks := 1, rand := 0 }) { start with pc := 4095 }).2 = .fault (.decodeFault 4095) := rfl
/-- The corner (31, 63): a drawn set bit there meets a pixel that is on; the seven other bits are clipped. -/
theorem witness_DrawByte : (drawByte (FrameBuffer.cleared.toggle 31 63) 63 31 0xFF).2 = true := by decide
/-- All fifteen rows up to the last byte of memory, and no row at all with I outside memory. -/
theorem witness_DrawSprite_bounds : (∀ k, k < (15 : Nibble).val → { start with I := 4081 }.I.toNat + k < 4096) ∧
    (∀ k, k < (0 : Nibble).val → { start with I := 0xFFFF }.I.toNat + k < 4096) := by
  constructor <;> (intro k hk; simp at hk ⊢; try omega)
/-- I = 0 is the glyph of 0: its first row 0xF0 sets the four leftmost pixels and no other. -/
theorem witness_DrawSprite_pixels : spriteOn start 1 2 1 0 3 ∧ ¬ spriteOn start 1 2 1 0 4 ∧ start.FB.get 0 3 = false ∧
    { start with FB := FrameBuffer.cleared.toggle 0 3 }.FB.get 0 3 = true ∧
    spriteOn { start with FB := FrameBuffer.cleared.toggle 0 3 } 1 2 1 0 3 := by
  unfold spriteOn; decide
theorem witness_DrawingTwice : ∃ t, exec (.drwVxVyN 1 2 5) start = .next t ∧ (t.reg 1).toNat % 64 = (start.reg 1).toNat % 64 ∧
    (t.reg 2).toNat % 32 = (start.reg 2).toNat % 32 := ⟨_, rfl, rfl, rfl⟩
theorem witness_ReturnResumes : { start with stack := [0x300, 0x204] }.stack = [0x300] ++ [0x204] := rfl
/-- A finite stack with room for one more, and the same stack full. -/
theorem witness_CallPushes : some 1 ≠ some start.stack.length ∧
    { start with stack := [0x204], config := { Config.default with stackDepth := some 1 } }.config.stackDepth =
      some { start with stack := [0x204] }.stack.length := by decide
theorem witness_CallThenReturn : ∃ t, exec (.callNnn 0x300) start = .next t ∧ t.stack = t.stack := ⟨_, rfl, rfl⟩
theorem witness_OffsetJump : start.config.quirk = false ∧ (quirky start).config.quirk = true ∧
    (15 : Reg).val = (0xFFF : Addr).toNat / 256 ∧ (0 : Reg).val = (0x0FF : Addr).toNat / 256 := by decide
theorem witness_VXNotVF : (14 : Reg) ≠ 15 := by decide
theorem witness_Shifts : (startV [(1, 0x81), (2, 0xFF)]).reg 1 = 0x81 ∧ (quirky (startV [(1, 0x81), (2, 0xFF)])).reg 2 = 0xFF := by decide
theorem witness_RandomByte : start.inputs = { ticks := 0, rand := 0 } :: [] := rfl
/-- R130 at both sides of its boundary. -/
theorem witness_Bcd : { start with I := 4093 }.I.toNat + 2 < 4096 ∧ 4096 ≤ { start with I := 4094 }.I.toNat + 2 := by decide
/-- R131, R132 at both sides of their boundary. -/
theorem witness_Block : { start with I := 4080 }.I.toNat + (15 : Reg).val < 4096 ∧ 4096 ≤ { start with I := 4081 }.I.toNat + (15 : Reg).val := by
  decide
theorem witness_LoadIsInverse : ∃ t u : State, exec (.ldMemVx 15) start = .next t ∧ u.mem = t.mem ∧ u.config = t.config ∧ u.I = start.I :=
  ⟨_, (start.writeBytes 0 (start.regsUpTo 15)), rfl, rfl, rfl, rfl⟩
/-- The state after an instruction that stores at 0x300, and a later one with the same memory and another pc. -/
def fetchAt (i : Instr) (pc : Word) : Option (State × State) :=
  match exec i { start with I := 0x300 } with
  | .next t => some (t, { t with pc := pc })
  | _ => none
/-- A fetch at each boundary of what FX33 and FX55 store: both bytes stored, only the first, only the second. -/
theorem witness_FetchSeesTheStore : ([0x2FF, 0x300, 0x301, 0x302].all fun pc => [Instr.ldBVx 1, .ldMemVx 2].all fun i =>
    (fetchAt i pc).any fun p => decide (p.2.pc.toNat + 1 < 4096 ∧ p.2.readByte p.2.pc.toNat = p.1.readByte p.2.pc.toNat ∧
      p.2.readByte (p.2.pc.toNat + 1) = p.1.readByte (p.2.pc.toNat + 1))) = true := by decide
theorem witness_EqualMemories : Memory.wf Config.defaultFont [(0, 0x11), (0x300, 0x61)] := by decide
/-- A pending key equal to VX, one that differs, and none. -/
theorem witness_KeySkips : (∃ k : Nibble, (start.setKey 0).keyPending = true ∧ (start.setKey 0).key = some k ∧ k.val = ((start.setKey 0).reg 1).toNat) ∧
    (∃ k : Nibble, (start.setKey 15).keyPending = true ∧ (start.setKey 15).key = some k ∧ k.val ≠ ((start.setKey 15).reg 1).toNat) ∧
    (¬ ∃ k : Nibble, start.keyPending = true ∧ start.key = some k ∧ k.val = (start.reg 1).toNat) :=
  ⟨⟨0, by decide⟩, ⟨15, by decide⟩, by decide⟩
theorem witness_KeyWait : ((start.setKey 9).keyPending = true ∧ (start.setKey 9).key = some 9) ∧ start.keyPending = false := by decide
theorem witness_PendingFlagWithoutKey : { start with keyPending := true }.keyPending = true ∧ { start with keyPending := true }.key = none :=
  ⟨rfl, rfl⟩
theorem witness_TimerInstructions : Runs (placed 0xF107) ∧ decodeWord (wordAtPc (placed 0xF107)) = .ldVxDt 1 ∧
    decodeWord (wordAtPc (placed 0xF115)) = .ldDtVx 1 ∧ decodeWord (wordAtPc (placed 0xF118)) = .ldStVx 1 :=
  ⟨placed_runs _, by decide, by decide, by decide⟩
theorem witness_Construction : State.construct Config.default 7 = State.construct Config.default 7 ∧ (15 < 16 ∧ 4 < 5) ∧ 80 ≤ 80 :=
  ⟨rfl, by decide⟩
/-- R161 at both sides of its boundary. -/
theorem witness_ResetLoadsTheProgram : (List.replicate 3584 (0 : Byte)).length ≤ 3584 ∧ 3584 < (List.replicate 3585 (0 : Byte)).length := by
  simp only [List.length_replicate]; decide
theorem witness_Placed : Instr.wellFormed (.ldVxNn 1 5) = true ∧ (∃ t, exec (.ldVxNn 1 5) (placed (encode (.ldVxNn 1 5)).toNat) = .next t) ∧
    exec .ret (placed (encode .ret).toNat) = .fault (.stackUnderflow 0x300) := ⟨rfl, ⟨_, rfl⟩, rfl⟩
/-- The same from a state in which nothing could be fetched. -/
theorem witness_Placed_past_the_end : Runs ({ start with pc := 4095, paused := true }.withFetchWord 16 0x6105) :=
  ⟨rfl, show (512 : Nat) + 1 < 4096 by decide⟩

end Sys2Proof.Tests
end

section
/-! SUPPORT. Frame rules: one rule per operation of the state, saying when the operation stays inside what `w` allows to be
written. The frame of an instruction is the composition of the rules of the operations its meaning is made of. -/

namespace Sys2Proof.Statements
open Sys2Proof.Machine

variable {w : Writes} {s t : State}

theorem FrameOutside.refl (w : Writes) (s : State) : FrameOutside w s s := by simp [FrameOutside]

theorem FrameOutside.setPc (h : FrameOutside w s t) (a : Word) : FrameOutside w s (t.setPc a) := h

theorem FrameOutside.setReg (h : FrameOutside w s t) {x : Reg} (hx : x ∈ w.regs) (b : Byte) :
    FrameOutside w s (t.setReg x b) := by
  obtain ⟨hregs, hrest⟩ := h
  refine ⟨fun y hy => ?_, hrest⟩
  rw [State.reg_setReg, if_neg (ne_of_mem_of_not_mem hx hy)]
  exact hregs y hy

theorem FrameOutside.writeFlagged (h : FrameOutside w s t) {x : Reg} (hx : x ∈ w.regs) (hf : flagReg ∈ w.regs)
    (r f : Byte) : FrameOutside w s (t.writeFlagged x r f) :=
  (h.setReg hx r).setReg hf f

theorem FrameOutside.loadRegs (h : FrameOutside w s t) {x : Reg} (hx : ∀ y : Reg, y.val ≤ x.val → y ∈ w.regs) (a : Nat) :
    FrameOutside w s (t.loadRegs x a) := by
  obtain ⟨hregs, hrest⟩ := h
  refine ⟨fun y hy => ?_, by simpa using hrest⟩
  rw [State.reg_loadRegs, if_neg (fun hle => hy (hx y hle))]
  exact hregs y hy

theorem FrameOutside.writeBytes (h : FrameOutside w s t) {a : Nat} {bs : List Byte} (hlo : w.base ≤ a)
    (hhi : a + bs.length ≤ w.base + w.count) : FrameOutside w s (t.writeBytes a bs) := by
  obtain ⟨hregs, hmem, hrest⟩ := h
  refine ⟨hregs, fun a' ha' => ?_, hrest⟩
  rw [State.readByte_writeBytes, dif_neg (by omega)]
  exact hmem a' ha'

/-- `I` may be written where `w` allows it, and otherwise only with the value it has (quirk mode, R131, R132). -/
theorem FrameOutside.setI (h : FrameOutside w s t) {a : Word} (ha : w.index = false → a = s.I) :
    FrameOutside w s (t.setI a) := by
  obtain ⟨hregs, hmem, -, hrest⟩ := h
  exact ⟨hregs, hmem, ha, hrest⟩

theorem FrameOutside.push (h : FrameOutside w s t) (hw : w.stack = true) (a : Word) : FrameOutside w s (t.push a) := by
  obtain ⟨hregs, hmem, hI, -, hrest⟩ := h
  exact ⟨hregs, hmem, hI, by simp [hw], hrest⟩

theorem FrameOutside.dropTop (h : FrameOutside w s t) (hw : w.stack = true) : FrameOutside w s t.dropTop := by
  obtain ⟨hregs, hmem, hI, -, hrest⟩ := h
  exact ⟨hregs, hmem, hI, by simp [hw], hrest⟩

theorem FrameOutside.setFB (h : FrameOutside w s t) (hw : w.pixels = true) (fb : FrameBuffer) :
    FrameOutside w s (t.setFB fb) := by
  obtain ⟨hregs, hmem, hI, hstack, -, hrest⟩ := h
  exact ⟨hregs, hmem, hI, hstack, by simp [hw], hrest⟩

theorem FrameOutside.setDT (h : FrameOutside w s t) (hw : w.delay = true) (b : Byte) : FrameOutside w s (t.setDT b) := by
  obtain ⟨hregs, hmem, hI, hstack, hFB, -, hrest⟩ := h
  exact ⟨hregs, hmem, hI, hstack, hFB, by simp [hw], hrest⟩

theorem FrameOutside.setST (h : FrameOutside w s t) (hw : w.sound = true) (b : Byte) : FrameOutside w s (t.setST b) := by
  obtain ⟨hregs, hmem, hI, hstack, hFB, hDT, -, hrest⟩ := h
  exact ⟨hregs, hmem, hI, hstack, hFB, hDT, by simp [hw], hrest⟩

theorem FrameOutside.setKeyPending (h : FrameOutside w s t) (hw : w.pending = true) (b : Bool) :
    FrameOutside w s (t.setKeyPending b) := by
  obtain ⟨hregs, hmem, hI, hstack, hFB, hDT, hST, -, hrest⟩ := h
  exact ⟨hregs, hmem, hI, hstack, hFB, hDT, hST, by simp [hw], hrest⟩

theorem FrameOutside.paused_eq (h : FrameOutside w s t) : t.paused = s.paused := by
  obtain ⟨-, -, -, -, -, -, -, -, -, hpaused, -⟩ := h
  exact hpaused

theorem FrameOutside.config_eq (h : FrameOutside w s t) : t.config = s.config := by
  obtain ⟨-, -, -, -, -, -, -, -, -, -, -, hconfig, -⟩ := h
  exact hconfig

theorem mem_regsTo {x y : Reg} : y ∈ regsTo x ↔ y.val ≤ x.val := by simp [regsTo]

end Sys2Proof.Statements
end

section
/-! SUPPORT. What a completed instruction was, for the instructions that do not always complete in the same way: the state each
leaves, and what its completion says of the state before. -/

namespace Sys2Proof.Machine

variable {s t : State}

theorem exec_ret_next (h : exec .ret s = .next t) :
    ∃ st a, s.stack = st ++ [a] ∧ t = s.dropTop.setPc (a + 2) := by
  rcases List.eq_nil_or_concat' s.stack with hempty | ⟨st, a, htop⟩
  · simp [exec_ret_empty s hempty] at h
  · rw [exec_ret_top s st a htop] at h
    exact ⟨st, a, htop, (Host.Outcome.next.inj h).symm⟩

theorem exec_callNnn_next {nnn : Addr} (h : exec (.callNnn nnn) s = .next t) :
    s.config.stackDepth ≠ some s.stack.length ∧ t = (s.push s.pc).setPc (addrWord nnn) := by
  by_cases hfull : s.config.stackDepth = some s.stack.length
  · simp [exec_callNnn_full nnn s hfull] at h
  · rw [exec_callNnn_room nnn s hfull] at h
    exact ⟨hfull, (Host.Outcome.next.inj h).symm⟩

theorem exec_ldVxK_next {x : Reg} (h : exec (.ldVxK x) s = .next t) :
    (∃ k, s.pendingKey = some k ∧ t = ((s.setReg x (keyByte k)).setKeyPending false).setPc (s.pc + 2)) ∨
    (s.pendingKey = none ∧ t = s.setPc s.pc) := by
  cases hkey : s.pendingKey with
  | some k =>
    rw [exec_ldVxK_key x s k hkey] at h
    exact .inl ⟨k, rfl, (Host.Outcome.next.inj h).symm⟩
  | none =>
    rw [exec_ldVxK_wait x s hkey] at h
    exact .inr ⟨rfl, (Host.Outcome.next.inj h).symm⟩

/-- A completed memory instruction has accessed no address outside memory (spec/20_memory.md R55, R56). -/
theorem exec_next_inBounds {i : Instr} (h : exec i s = .next t) :
    accessLength i = 0 ∨ s.I.toNat + accessLength i ≤ memSize := by
  by_contra hout
  simp [exec_bounds_fault i s (by omega)] at h

theorem exec_ldBVx_next {x : Reg} (h : exec (.ldBVx x) s = .next t) :
    s.I.toNat + 3 ≤ memSize ∧ t = (s.writeBytes s.I.toNat (bcdDigits (s.reg x))).setPc (s.pc + 2) := by
  have hin : s.I.toNat + 3 ≤ memSize := (exec_next_inBounds h).resolve_left (by simp [accessLength])
  rw [exec_ldBVx_ok x s hin] at h
  exact ⟨hin, (Host.Outcome.next.inj h).symm⟩

theorem exec_ldMemVx_next {x : Reg} (h : exec (.ldMemVx x) s = .next t) :
    s.I.toNat + (x.val + 1) ≤ memSize ∧
      t = ((s.writeBytes s.I.toNat (s.regsUpTo x)).setI (s.blockIndex x)).setPc (s.pc + 2) := by
  have hin : s.I.toNat + (x.val + 1) ≤ memSize := (exec_next_inBounds h).resolve_left (by simp [accessLength])
  rw [exec_ldMemVx_ok x s hin] at h
  exact ⟨hin, (Host.Outcome.next.inj h).symm⟩

theorem exec_ldVxMem_next {x : Reg} (h : exec (.ldVxMem x) s = .next t) :
    s.I.toNat + (x.val + 1) ≤ memSize ∧
      t = ((s.loadRegs x s.I.toNat).setI (s.blockIndex x)).setPc (s.pc + 2) := by
  have hin : s.I.toNat + (x.val + 1) ≤ memSize := (exec_next_inBounds h).resolve_left (by simp [accessLength])
  rw [exec_ldVxMem_ok x s hin] at h
  exact ⟨hin, (Host.Outcome.next.inj h).symm⟩

theorem exec_drwVxVyN_next {x y : Reg} {n : Nibble} (h : exec (.drwVxVyN x y n) s = .next t) :
    (n.val = 0 ∨ s.I.toNat + n.val ≤ memSize) ∧
      t = ((s.setFB (s.drawSprite x y n).1).setReg flagReg (flagByte (s.drawSprite x y n).2)).setPc (s.pc + 2) := by
  have hin : n.val = 0 ∨ s.I.toNat + n.val ≤ memSize := exec_next_inBounds h
  rw [exec_drwVxVyN_ok x y n s hin] at h
  exact ⟨hin, (Host.Outcome.next.inj h).symm⟩

theorem flagByte_zero_or_one (f : Bool) : flagByte f = 0 ∨ flagByte f = 1 := by cases f <;> simp [flagByte]

/-- VF is written last, so it holds the flag with X = 15 too (spec/43_alu.md R114). -/
theorem State.reg15_writeFlagged (s : State) (x : Reg) (r f : Byte) : (s.writeFlagged x r f).reg 15 = f := by
  simp [State.reg_writeFlagged, flagReg]

/-- In quirk mode a block transfer leaves I (R131, R132). -/
theorem State.blockIndex_quirk (x : Reg) (hq : s.config.quirk = true) : s.blockIndex x = s.I := by
  simp [State.blockIndex, hq]

end Sys2Proof.Machine
end

section
namespace Sys2Proof.Statements
open Sys2Proof.Machine

/-- The frame of every instruction, put together from the rules of the operations in its meaning. -/
theorem exec_frameOutside (i : Instr) (s t : State) (h : exec i s = .next t) : FrameOutside (writesOf i s) s t := by
  have start := FrameOutside.refl (writesOf i s) s
  have keepsI : ∀ x : Reg, (!s.config.quirk) = false → s.blockIndex x = s.I := fun x hq =>
    State.blockIndex_quirk x (by simpa using hq)
  cases i with
  | jpNnn | jpV0Nnn | seVxNn | sneVxNn | seVxVy | sneVxVy | skpVx | sknpVx | unmatched =>
    cases h; exact start.setPc _
  | ldVxNn | addVxNn | ldVxVy | orVxVy | andVxVy | xorVxVy | rndVxNn | ldVxDt =>
    cases h; exact (start.setReg (by simp [writesOf]) _).setPc _
  | addVxVy | subVxVy | shrVxVy | subnVxVy | shlVxVy =>
    cases h; exact (start.writeFlagged (by simp [writesOf]) (by simp [writesOf, flagReg]) _ _).setPc _
  | ldINnn | addIVx | ldFVx =>
    cases h; exact (start.setI (by simp [writesOf])).setPc _
  | ldDtVx => cases h; exact (start.setDT rfl _).setPc _
  | ldStVx => cases h; exact (start.setST rfl _).setPc _
  | cls => cases h; exact (start.setFB rfl _).setPc _
  | ret =>
    obtain ⟨st, a, -, rfl⟩ := exec_ret_next h
    exact (start.dropTop rfl).setPc _
  | callNnn nnn =>
    obtain ⟨-, rfl⟩ := exec_callNnn_next h
    exact (start.push rfl _).setPc _
  | drwVxVyN x y n =>
    obtain ⟨-, rfl⟩ := exec_drwVxVyN_next h
    exact ((start.setFB rfl _).setReg (by simp [writesOf, flagReg]) _).setPc _
  | ldVxK x =>
    obtain ⟨k, -, rfl⟩ | ⟨-, rfl⟩ := exec_ldVxK_next h
    · exact ((start.setReg (by simp [writesOf]) _).setKeyPending rfl _).setPc _
    · exact start.setPc _
  | ldBVx x =>
    obtain ⟨-, rfl⟩ := exec_ldBVx_next h
    exact (start.writeBytes le_rfl le_rfl).setPc _
  | ldMemVx x =>
    obtain ⟨-, rfl⟩ := exec_ldMemVx_next h
    exact ((start.writeBytes le_rfl (by simp [writesOf, State.regsUpTo_length])).setI (keepsI x)).setPc _
  | ldVxMem x =>
    obtain ⟨-, rfl⟩ := exec_ldVxMem_next h
    exact ((start.loadRegs (fun _ hy => mem_regsTo.2 hy) _).setI (keepsI x)).setPc _

end Sys2Proof.Statements
end

section
/-! SUPPORT. The invariant under the operations that touch a component it speaks of, under whole instructions, and under the
host's transactions. -/

namespace Sys2Proof.Machine

variable {s t : State}

theorem State.Inv.setPc (hs : s.Inv) {a : Word} (ha : a.toNat ≤ 0x10FE) : (s.setPc a).Inv :=
  hs.of_eq rfl rfl rfl rfl rfl ha

theorem State.Inv.setI (hs : s.Inv) (a : Word) : (s.setI a).Inv :=
  hs.of_eq rfl rfl rfl rfl rfl hs.pcBound

/-- By the field lemmas: `rfl` would evaluate the loaded register file. -/
theorem State.Inv.loadRegs (hs : s.Inv) (x : Reg) (a : Nat) : (s.loadRegs x a).Inv :=
  hs.of_eq (by simp) (by simp) (by simp) (by simp) (by simp) (by simpa using hs.pcBound)

/-- A store inside memory keeps the canonical form. -/
theorem State.Inv.writeBytes (hs : s.Inv) {a : Nat} {bs : List Byte} (ha : a + bs.length ≤ memSize) :
    (s.writeBytes a bs).Inv :=
  { hs with memWf := Memory.writeBytes_wf _ _ _ _ hs.memWf ha }

/-- A push of a fetchable address onto a stack that is not full (spec/10_state.md R28, spec/42_flow.md R105). -/
theorem State.Inv.push (hs : s.Inv) {a : Word} (ha : a.toNat ≤ 4094) (hroom : s.config.stackDepth ≠ some s.stack.length) :
    (s.push a).Inv where
  memWf := hs.memWf
  pcBound := hs.pcBound
  stackBound := by
    intro b hb
    rcases List.mem_append.1 hb with hold | hnew
    · exact hs.stackBound b hold
    · rw [List.mem_singleton.1 hnew]; exact ha
  pendingHasKey := hs.pendingHasKey
  stackFits := by
    intro d hd
    have hfits : s.stack.length ≤ d := hs.stackFits d hd
    have hne : s.stack.length ≠ d := fun heq => hroom (heq ▸ hd)
    simp only [State.push_stack, List.length_append, List.length_singleton]
    omega

theorem State.Inv.dropTop (hs : s.Inv) : s.dropTop.Inv where
  memWf := hs.memWf
  pcBound := hs.pcBound
  stackBound := fun a ha => hs.stackBound a (List.mem_of_mem_dropLast ha)
  pendingHasKey := hs.pendingHasKey
  stackFits := fun d hd => (s.stack.dropLast_sublist.length_le).trans (hs.stackFits d hd)

theorem State.Inv.dropPending (hs : s.Inv) : (s.setKeyPending false).Inv :=
  { hs with pendingHasKey := nofun }

theorem State.Inv.endStep (hs : s.Inv) : s.endStep.Inv :=
  hs.dropPending.of_eq rfl rfl rfl rfl rfl hs.pcBound

/-- Two past a fetchable address is still below R28's bound. -/
theorem toNat_add_two_le {a : Word} (ha : a.toNat ≤ 4094) : (a + 2).toNat ≤ 0x10FE := by bv_omega

theorem toNat_skip_le {a : Word} (ha : a.toNat ≤ 4094) (c : Bool) : (if c then a + 4 else a + 2).toNat ≤ 0x10FE := by
  cases c
  · exact toNat_add_two_le ha
  · simp only [if_true]; bv_omega

theorem addrWord_le (nnn : Addr) : (addrWord nnn).toNat ≤ 0x10FE := by
  rw [addrWord_toNat]; omega

/-- R28: no rule writes more than 0xFFF + 0xFF to pc. -/
theorem State.offsetTarget_le (s : State) (nnn : Addr) : (s.offsetTarget nnn).toNat ≤ 0x10FE := by
  rw [offsetTarget_toNat]; omega

/-- An instruction fetched at `s.pc` keeps the invariant. Only the stores, the two stack instructions and the key wait touch a
component the invariant speaks of besides pc. -/
theorem exec_keepsInv (i : Instr) (hs : s.Inv) (hpc : s.pc.toNat ≤ 4094) (h : exec i s = .next t) : t.Inv := by
  have hnext := toNat_add_two_le hpc
  cases i with
  | cls | ldVxNn | addVxNn | ldVxVy | orVxVy | andVxVy | xorVxVy | addVxVy | subVxVy | shrVxVy | subnVxVy | shlVxVy
  | ldINnn | rndVxNn | ldVxDt | ldDtVx | ldStVx | addIVx | ldFVx | unmatched =>
    cases h; exact hs.of_eq rfl rfl rfl rfl rfl hnext
  | seVxNn | sneVxNn | seVxVy | sneVxVy | skpVx | sknpVx =>
    cases h; exact hs.setPc (toNat_skip_le hpc _)
  | jpNnn nnn => cases h; exact hs.setPc (addrWord_le nnn)
  | jpV0Nnn nnn => cases h; exact hs.setPc (s.offsetTarget_le nnn)
  | ret =>
    obtain ⟨st, a, htop, rfl⟩ := exec_ret_next h
    exact hs.dropTop.setPc (toNat_add_two_le (hs.stackBound a (by simp [htop])))
  | callNnn nnn =>
    obtain ⟨hroom, rfl⟩ := exec_callNnn_next h
    exact (hs.push hpc hroom).setPc (addrWord_le nnn)
  | drwVxVyN x y n =>
    obtain ⟨-, rfl⟩ := exec_drwVxVyN_next h
    exact hs.of_eq rfl rfl rfl rfl rfl hnext
  | ldVxK x =>
    obtain ⟨k, -, rfl⟩ | ⟨-, rfl⟩ := exec_ldVxK_next h
    · exact hs.dropPending.of_eq rfl rfl rfl rfl rfl hnext
    · exact hs.setPc hs.pcBound
  | ldBVx x =>
    obtain ⟨hin, rfl⟩ := exec_ldBVx_next h
    exact (hs.writeBytes hin).setPc hnext
  | ldMemVx x =>
    obtain ⟨hin, rfl⟩ := exec_ldMemVx_next h
    have hstore := hs.writeBytes (bs := s.regsUpTo x) (by rwa [State.regsUpTo_length])
    exact (hstore.setI _).setPc hnext
  | ldVxMem x =>
    obtain ⟨-, rfl⟩ := exec_ldVxMem_next h
    exact ((hs.loadRegs x _).setI _).setPc hnext

theorem step_keepsInv (hs : s.Inv) (h : step s = .next t) : t.Inv := by
  obtain ⟨-, rfl⟩ | ⟨-, hpc, u, hexec, rfl⟩ := step_next s t h
  · exact hs
  · have hfetched : s.pc.toNat ≤ 4094 := by unfold memSize at hpc; omega
    exact (exec_keepsInv _ hs hfetched hexec).endStep

theorem State.Inv.withInput (hs : s.Inv) (inp : StepInput) : (s.withInput inp).Inv :=
  hs.of_eq rfl rfl rfl rfl rfl hs.pcBound

/-- A step with the host's inputs is a paused one that changes nothing, or a step of the state with those inputs. -/
theorem stepWith_next {inp : StepInput} (h : stepWith inp s = .next t) :
    t = s ∨ step (s.withInput inp) = .next t := by
  unfold stepWith at h
  split at h
  · exact .inl (Host.Outcome.next.inj h).symm
  · exact .inr h

/-- A reset that is not refused writes its program inside memory. -/
theorem State.resetProgram_next {program : List Byte} {now : Time} (h : s.resetProgram program now = .next t) :
    512 + program.length ≤ memSize ∧
      t = { s with
        mem := Memory.writeBytes s.config.font [] 512 program
        V := Vector.replicate 16 0
        I := 0
        pc := 512
        stack := []
        DT := 0
        ST := 0
        lastTick := now } := by
  unfold State.resetProgram at h
  split at h
  case isTrue => cases h
  case isFalse hlen =>
    have hfits : 512 + program.length ≤ memSize := by unfold memSize at *; omega
    exact ⟨hfits, (Host.Outcome.next.inj h).symm⟩

theorem Memory.wf_nil (font : Font) : Memory.wf font [] := by simp [Memory.wf]

theorem State.Inv.resetProgram (hs : s.Inv) {program : List Byte} {now : Time}
    (h : s.resetProgram program now = .next t) : t.Inv := by
  obtain ⟨hfits, rfl⟩ := State.resetProgram_next h
  exact
    { memWf := Memory.writeBytes_wf _ _ _ _ (Memory.wf_nil _) hfits
      pcBound := show (512 : Word).toNat ≤ 0x10FE by decide
      stackBound := by simp
      pendingHasKey := hs.pendingHasKey
      stackFits := by simp }

theorem State.construct_inv (config : Config) (now : Time) : (State.construct config now).Inv where
  memWf := Memory.wf_nil _
  pcBound := show (512 : Word).toNat ≤ 0x10FE by decide
  stackBound := nofun
  pendingHasKey := nofun
  stackFits := fun _ _ => Nat.zero_le _

/-- What holds before an outcome and of its next state, where it has one, holds after it is settled. -/
theorem settle_induction {p : State → Prop} {o : Host.Outcome State Fault Refusal} (hbefore : p s)
    (hnext : ∀ t, o = .next t → p t) : p (settle s o).1 := by
  cases o with
  | next t => exact hnext t rfl
  | fault f => exact hbefore
  | refused r => exact hbefore

theorem runTransaction_keepsInv (tr : Transaction) (hs : s.Inv) : (runTransaction tr s).1.Inv := by
  cases tr with
  | reset program now => exact settle_induction hs fun t h => hs.resetProgram h
  | step inp =>
    refine settle_induction hs fun t h => ?_
    obtain rfl | hstep := stepWith_next h
    · exact hs
    · exact step_keepsInv (hs.withInput inp) hstep
  | setKey k => exact { hs with pendingHasKey := fun _ => nofun }
  | clearKey => exact { hs with pendingHasKey := nofun }
  | togglePause => exact hs.of_eq rfl rfl rfl rfl rfl hs.pcBound

theorem runTransactions_keepsInv (ts : List Transaction) (hs : s.Inv) : (runTransactions ts s).Inv := by
  induction ts generalizing s with
  | nil => exact hs
  | cons tr ts ih => exact ih (runTransaction_keepsInv tr hs)

end Sys2Proof.Machine
end

section
/-! SUPPORT. Canonical memories are determined by their reads (log 5). -/

namespace Sys2Proof.Machine

/-- A listed address differs from the reset contents, so a memory that lists only higher addresses reads otherwise there. -/
theorem Memory.read_head_ne {font : Font} {c : Host.Cell} {m m' : Memory} (hm : Memory.wf font (c :: m))
    (habove : ∀ d ∈ m', c.1 < d.1) : Memory.read font (c :: m) c.1 ≠ Memory.read font m' c.1 := by
  obtain ⟨-, hlisted⟩ := hm
  obtain ⟨-, hne⟩ := hlisted c (by simp)
  rw [Memory.read_below font m' c.1 habove]
  simpa [Memory.read] using hne

theorem Memory.wf_tail {font : Font} {c : Host.Cell} {m : Memory} (hm : Memory.wf font (c :: m)) :
    (∀ d ∈ m, c.1 < d.1) ∧ Memory.wf font m := by
  obtain ⟨hrising, hlisted⟩ := hm
  obtain ⟨habove, hrest⟩ := List.pairwise_cons.1 hrising
  exact ⟨habove, hrest, fun d hd => hlisted d (List.mem_cons_of_mem c hd)⟩

/-- Every cell of a canonical memory is at its first cell's address or above it. -/
theorem Memory.above_of_lt_head {font : Font} {c : Host.Cell} {m : Memory} {a : Nat} (hm : Memory.wf font (c :: m))
    (ha : a < c.1) : ∀ d ∈ c :: m, a < d.1 := by
  obtain ⟨habove, -⟩ := Memory.wf_tail hm
  exact List.forall_mem_cons.2 ⟨ha, fun d hd => ha.trans (habove d hd)⟩

theorem Memory.eq_of_read_eq {font : Font} {m m' : Memory} (hm : Memory.wf font m) (hm' : Memory.wf font m')
    (hread : ∀ a, Memory.read font m a = Memory.read font m' a) : m = m' := by
  induction m generalizing m' with
  | nil =>
    cases m' with
    | nil => rfl
    | cons d m' => exact absurd (hread d.1).symm (Memory.read_head_ne hm' (by simp))
  | cons c m ih =>
    cases m' with
    | nil => exact absurd (hread c.1) (Memory.read_head_ne hm (by simp))
    | cons d m' =>
      obtain ⟨habove, htail⟩ := Memory.wf_tail hm
      obtain ⟨habove', htail'⟩ := Memory.wf_tail hm'
      rcases lt_trichotomy c.1 d.1 with hlt | heq | hgt
      · exact absurd (hread c.1) (Memory.read_head_ne hm (Memory.above_of_lt_head hm' hlt))
      · have hbyte : c.2 = d.2 := by simpa [Memory.read, heq] using hread c.1
        have hrest : ∀ a, Memory.read font m a = Memory.read font m' a := by
          intro a
          by_cases ha : c.1 = a
          · subst ha
            rw [Memory.read_below font m _ habove, Memory.read_below font m' _ (by rwa [heq])]
          · simpa [Memory.read, ha, ← heq] using hread a
        rw [Prod.ext heq hbyte, ih htail htail' hrest]
      · exact absurd (hread d.1).symm (Memory.read_head_ne hm' (Memory.above_of_lt_head hm hgt))

/-- The reset contents at row `k` of glyph `d` (spec/20_memory.md R48). -/
theorem Memory.unlisted_glyph (font : Font) (d k : Nat) (hd : d < 16) (hk : k < 5) :
    Memory.unlisted font (5 * d + k) = font[d][k] := by
  have hdiv : (5 * d + k) / 5 = d := by omega
  have hmod : (5 * d + k) % 5 = k := by omega
  simp only [Memory.unlisted, hdiv, hmod]
  rw [dif_pos (by omega)]

theorem Memory.unlisted_of_le (font : Font) (a : Nat) (ha : 80 ≤ a) : Memory.unlisted font a = 0 := by
  simp [Memory.unlisted, ha]

end Sys2Proof.Machine
end

section
/-! SUPPORT. The configuration and the pause, which no instruction may write (spec/10_state.md R34, R45). -/

namespace Sys2Proof.Machine

variable {s t : State}

/-- Configuration and pause are as before. -/
def SameControl (s t : State) : Prop := t.config = s.config ∧ t.paused = s.paused

theorem SameControl.refl (s : State) : SameControl s s := ⟨rfl, rfl⟩

theorem step_sameControl (h : step s = .next t) : SameControl s t := by
  obtain ⟨-, rfl⟩ | ⟨-, -, u, hexec, rfl⟩ := step_next s t h
  · exact SameControl.refl _
  · have hframe := Statements.exec_frameOutside _ s u hexec
    exact ⟨hframe.config_eq, hframe.paused_eq⟩

theorem stepWith_sameControl {inp : StepInput} (h : stepWith inp s = .next t) : SameControl s t := by
  obtain rfl | hstep := stepWith_next h
  · exact SameControl.refl _
  · have hsame : SameControl (s.withInput inp) t := step_sameControl hstep
    exact hsame

theorem resetProgram_sameControl {program : List Byte} {now : Time} (h : s.resetProgram program now = .next t) :
    SameControl s t := by
  obtain ⟨-, rfl⟩ := State.resetProgram_next h
  exact ⟨rfl, rfl⟩

end Sys2Proof.Machine
end

section
/-! The obligations about the state and its invariant. -/

namespace Sys2Proof.Proofs
open Sys2Proof Sys2Proof.Machine Sys2Proof.Statements

/-- Settles O13: a running step is a fetch, an instruction that keeps the invariant, and an end of step that keeps it. -/
theorem stepKeepsInvariant : Obligations.StepKeepsInvariant := fun _ _ hs h => step_keepsInv hs h

/-- Settles O14, transaction by transaction. -/
theorem transactionsKeepInvariant : Obligations.TransactionsKeepInvariant := fun tr _ hs => runTransaction_keepsInv tr hs

/-- Settles O15: construction satisfies the invariant and every transaction keeps it. -/
theorem reachableStatesSatisfyInvariant : Obligations.ReachableStatesSatisfyInvariant := by
  rintro s ⟨config, now, ts, rfl⟩
  exact runTransactions_keepsInv ts (State.construct_inv config now)

/-- Settles O16, by the frame rules of the operations each instruction is made of. -/
theorem everyInstructionKeepsItsFrame : Obligations.EveryInstructionKeepsItsFrame := exec_frameOutside

/-- Settles O17: VF is written last, with a flag byte, so it holds that byte whatever X is. -/
theorem flagWritersLeaveZeroOrOne : Obligations.FlagWritersLeaveZeroOrOne := by
  intro i s t hwrites h
  cases i with
  | addVxVy | subVxVy | shrVxVy | subnVxVy | shlVxVy =>
    cases h
    rw [State.setPc_reg, State.reg15_writeFlagged]
    exact flagByte_zero_or_one _
  | drwVxVyN x y n =>
    obtain ⟨-, rfl⟩ := exec_drwVxVyN_next h
    rw [State.setPc_reg, State.reg_setReg, if_pos (by rfl)]
    exact flagByte_zero_or_one _
  | _ => exact hwrites.elim

/-- Settles O19: no instruction's frame allows a write of either field, and of the transactions only one writes `paused`. -/
theorem configurationNeverChanges : Obligations.ConfigurationNeverChanges := by
  refine ⟨fun s t h => step_sameControl h, fun tr s => ?_⟩
  cases tr with
  | reset program now =>
    exact settle_induction (p := SameControl s) (SameControl.refl s) fun t h => resetProgram_sameControl h
  | step inp =>
    exact settle_induction (p := SameControl s) (SameControl.refl s) fun t h => stepWith_sameControl h
  | setKey | clearKey | togglePause => exact ⟨rfl, rfl⟩

/-- Settles O50, by induction on the first memory: the first cells must agree, since each is the lowest address that reads
otherwise than after reset. -/
theorem equalMemoriesAreEqualData : Obligations.EqualMemoriesAreEqualData := fun _ _ _ => Memory.eq_of_read_eq

/-- Settles O55: memory lists nothing, so it reads as the font and zeros. -/
theorem constructionGivesTheResetState : Obligations.ConstructionGivesTheResetState := by
  refine ⟨rfl, ?_⟩
  rintro config now s rfl
  refine ⟨fun x => ?_, rfl, rfl, rfl, rfl, rfl, fun r c _ _ => FrameBuffer.get_cleared r c, rfl, rfl, rfl, rfl, rfl,
    Memory.unlisted_glyph config.font, Memory.unlisted_of_le config.font⟩
  simp [State.reg, State.construct]

/-- Settles O12: the reset state is a constructed block. -/
theorem resetSatisfiesInvariant : Obligations.ResetSatisfiesInvariant := State.construct_inv Config.default 0

/-- Settles O53: no key is pending without a key, so the instruction only writes pc back. -/
theorem pendingFlagWithoutKeyWaits : Obligations.PendingFlagWithoutKeyWaits := by
  intro s x _ hkey
  have hnone : s.pendingKey = none := by simp [State.pendingKey, hkey]
  exact ⟨s.setPc s.pc, exec_ldVxK_wait x s hnone, rfl, (FrameOutside.refl {} s).setPc _⟩

end Sys2Proof.Proofs
end

section
/-! SUPPORT. The decoder against the encoder: a word is that of the instruction it decodes to, and the word of a well-formed
instruction decodes to it (spec/30_encoding.md R67, R69, R74). -/

namespace Sys2Proof

/-- Branch by branch of the decoder, each pattern put together again from the fields it was read from. -/
theorem encode_decodeWord (w : Word) : encode (decodeWord w) = w := by
  unfold decodeWord
  split
  next =>
    split_ifs with hcls hret
    · exact hcls.symm
    · exact hret.symm
    · rfl
  next h0 => exact encodeNNN_fields w 0x1 h0
  next h0 => exact encodeNNN_fields w 0x2 h0
  next h0 => exact encodeXNN_fields w 0x3 h0
  next h0 => exact encodeXNN_fields w 0x4 h0
  next h0 =>
    split_ifs with h3
    · exact encodeXYN_fields w 0x5 0x0 h0 h3
    · rfl
  next h0 => exact encodeXNN_fields w 0x6 h0
  next h0 => exact encodeXNN_fields w 0x7 h0
  next h0 =>
    split
    case h_10 => rfl
    all_goals exact encodeXYN_fields w 0x8 _ h0 ‹_›
  next h0 =>
    split_ifs with h3
    · exact encodeXYN_fields w 0x9 0x0 h0 h3
    · rfl
  next h0 => exact encodeNNN_fields w 0xA h0
  next h0 => exact encodeNNN_fields w 0xB h0
  next h0 => exact encodeXNN_fields w 0xC h0
  next h0 => exact encodeXYN_fields w 0xD (fieldN w) h0 (fieldN_val w).symm
  next h0 =>
    split
    case h_3 => rfl
    all_goals exact encodeX_fields w 0xE _ h0 ‹_›
  next =>
    have hlt := nibble0_lt w
    have h0 : nibble0 w = 0xF := by
      simp only [imp_false] at *
      omega
    split
    case h_10 => rfl
    all_goals exact encodeX_fields w 0xF _ h0 ‹_›

namespace Laws.EncodingMatchesRow

/-- The lemmas of the constructors, put together. -/
theorem statement : (i : Instr) → Statement i
  | .cls => cls
  | .ret => ret
  | .jpNnn nnn => jpNnn nnn
  | .callNnn nnn => callNnn nnn
  | .seVxNn x nn => seVxNn x nn
  | .sneVxNn x nn => sneVxNn x nn
  | .seVxVy x y => seVxVy x y
  | .ldVxNn x nn => ldVxNn x nn
  | .addVxNn x nn => addVxNn x nn
  | .ldVxVy x y => ldVxVy x y
  | .orVxVy x y => orVxVy x y
  | .andVxVy x y => andVxVy x y
  | .xorVxVy x y => xorVxVy x y
  | .addVxVy x y => addVxVy x y
  | .subVxVy x y => subVxVy x y
  | .shrVxVy x y => shrVxVy x y
  | .subnVxVy x y => subnVxVy x y
  | .shlVxVy x y => shlVxVy x y
  | .sneVxVy x y => sneVxVy x y
  | .ldINnn nnn => ldINnn nnn
  | .jpV0Nnn nnn => jpV0Nnn nnn
  | .rndVxNn x nn => rndVxNn x nn
  | .drwVxVyN x y n => drwVxVyN x y n
  | .skpVx x => skpVx x
  | .sknpVx x => sknpVx x
  | .ldVxDt x => ldVxDt x
  | .ldVxK x => ldVxK x
  | .ldDtVx x => ldDtVx x
  | .ldStVx x => ldStVx x
  | .addIVx x => addIVx x
  | .ldFVx x => ldFVx x
  | .ldBVx x => ldBVx x
  | .ldMemVx x => ldMemVx x
  | .ldVxMem x => ldVxMem x
  | .unmatched w => unmatched w

end Laws.EncodingMatchesRow

theorem mnemonic_in_opcodeTable {i : Instr} (hi : ∀ w, i ≠ .unmatched w) :
    (opcodeTable.find? (fun r => r.mnemonic == i.mnemonic)).isSome = true := by
  cases i with
  | unmatched w => exact absurd rfl (hi w)
  | _ => rfl

/-- Every instruction but an unmatched word has a row of the opcode table that its word matches (R70). -/
theorem exists_row_matches_encode {i : Instr} (hi : ∀ w, i ≠ .unmatched w) :
    ∃ r ∈ opcodeTable, r.Matches (encode i) := by
  obtain ⟨r, hfind⟩ := Option.isSome_iff_exists.1 (mnemonic_in_opcodeTable hi)
  have hrow := Laws.EncodingMatchesRow.statement i
  simp only [Laws.EncodingMatchesRow.Statement, hfind] at hrow
  exact ⟨r, List.mem_of_find?_eq_some hfind, hrow⟩

/-- What such a word decodes to has no row, and only an unmatched word has none (R73). -/
theorem decodeWord_of_matchesNoRow {w : Word} (hw : MatchesNoRow w) : decodeWord w = .unmatched w := by
  have hword := encode_decodeWord w
  have hunmatched : ∃ w', decodeWord w = .unmatched w' := by
    by_contra hnone
    obtain ⟨r, hr, hmatch⟩ := exists_row_matches_encode (not_exists.1 hnone)
    exact hw r hr (hword ▸ hmatch)
  obtain ⟨w', hdecode⟩ := hunmatched
  have hw' : w' = w := by rwa [hdecode] at hword
  rw [hdecode, hw']

/-- Pattern by pattern: the decoder finds each field where the encoder put it. -/
theorem decodeWord_encode {i : Instr} (hi : i.wellFormed = true) : decodeWord (encode i) = i := by
  cases i with
  | cls | ret => rfl
  | jpNnn | callNnn | ldINnn | jpV0Nnn => simp [encode, decodeWord, fields_encodeNNN]
  | seVxNn | sneVxNn | ldVxNn | addVxNn | rndVxNn => simp [encode, decodeWord, fields_encodeXNN]
  | seVxVy | ldVxVy | orVxVy | andVxVy | xorVxVy | addVxVy | subVxVy | shrVxVy | subnVxVy | shlVxVy | sneVxVy =>
    simp [encode, decodeWord, fields_encodeXYN]
  | drwVxVyN x y n =>
    have hn : fieldN (encodeXYN 0xD x y n.val) = n := Fin.ext (by simp [fieldN_val, fields_encodeXYN])
    simp [encode, decodeWord, fields_encodeXYN, hn]
  | skpVx | sknpVx | ldVxDt | ldVxK | ldDtVx | ldStVx | addIVx | ldFVx | ldBVx | ldMemVx | ldVxMem =>
    simp [encode, decodeWord, fields_encodeX]
  | unmatched w => exact decodeWord_of_matchesNoRow (of_decide_eq_true hi)

end Sys2Proof
end

section
/-! SUPPORT. Fetch, decode, execute: what a step that runs answers, and what a completed instruction leaves in memory. -/

namespace Sys2Proof.Statements
open Sys2Proof.Machine

variable {w : Writes} {s t : State}

/-- The inputs of the step are still the same after an instruction (log 1). -/
theorem FrameOutside.stepInput_eq (h : FrameOutside w s t) : t.stepInput = s.stepInput := by
  obtain ⟨-, -, -, -, -, -, -, -, -, -, -, -, hinputs, hdraws⟩ := h
  simp [State.stepInput, hinputs, hdraws]

theorem FrameOutside.readByte_eq (h : FrameOutside w s t) {a : Nat} (ha : ¬ (w.base ≤ a ∧ a < w.base + w.count)) :
    t.readByte a = s.readByte a := by
  obtain ⟨-, hmem, -⟩ := h
  exact hmem a ha

theorem fetch_of_runs (h : Runs s) : s.fetch = .ok (wordAtPc s) := s.fetch_ok h.2

theorem step_of_exec_next (hruns : Runs s) (h : exec (decodeWord (wordAtPc s)) s = .next t) :
    step s = .next t.endStep := by
  simp [step, hruns.1, fetch_of_runs hruns, h]

theorem step_of_exec_fault {f : Fault} (hruns : Runs s) (h : exec (decodeWord (wordAtPc s)) s = .fault f) :
    step s = .fault f := by
  simp [step, hruns.1, fetch_of_runs hruns, h]

/-- The digits `FX33` stores, read back at each offset (spec/44_index_memory.md R130). -/
theorem readByte_writeBytes_bcdDigits (s : State) (x : Reg) (a : Nat) :
    (s.writeBytes s.I.toNat (bcdDigits (s.reg x))).readByte a = byteAfter (.ldBVx x) s a := by
  rw [State.readByte_writeBytes]
  by_cases hin : s.I.toNat ≤ a ∧ a - s.I.toNat < 3
  · obtain ⟨k, rfl⟩ : ∃ k, a = s.I.toNat + k := Nat.exists_eq_add_of_le hin.1
    have hk : k < 3 := by omega
    interval_cases k <;> simp [bcdDigits, byteAfter]
  · have hlen : (bcdDigits (s.reg x)).length = 3 := rfl
    rw [dif_neg (by rwa [hlen])]
    simp only [byteAfter]
    rw [if_neg (by omega), if_neg (by omega), if_neg (by omega)]

/-- The registers `FX55` stores, read back at each offset (R131). -/
theorem readByte_writeBytes_regsUpTo (s : State) (x : Reg) (a : Nat) :
    (s.writeBytes s.I.toNat (s.regsUpTo x)).readByte a = byteAfter (.ldMemVx x) s a := by
  rw [State.readByte_writeBytes]
  have hlen := State.regsUpTo_length s x
  by_cases hin : s.I.toNat ≤ a ∧ a ≤ s.I.toNat + x.val
  · have hreg : Fin.ofNat 16 (a - s.I.toNat) = ⟨a - s.I.toNat, by omega⟩ := Fin.ext (Nat.mod_eq_of_lt (by omega))
    rw [dif_pos (by omega), State.regsUpTo_getElem]
    simp only [byteAfter, if_pos hin, hreg]
  · rw [dif_neg (by omega)]
    simp only [byteAfter, if_neg hin]

/-- Memory after a completed instruction: the two stores by read after write, every other instruction by its frame. -/
theorem readByte_of_exec_next {i : Instr} (h : exec i s = .next t) (a : Nat) : t.readByte a = byteAfter i s a := by
  have hframe := exec_frameOutside i s t h
  cases i with
  | ldBVx x =>
    obtain ⟨-, rfl⟩ := exec_ldBVx_next h
    exact readByte_writeBytes_bcdDigits s x a
  | ldMemVx x =>
    obtain ⟨-, rfl⟩ := exec_ldMemVx_next h
    exact readByte_writeBytes_regsUpTo s x a
  | _ => exact hframe.readByte_eq (by simp [writesOf])

end Sys2Proof.Statements
end

section
/-! SUPPORT. The word placed for the next step (log 9). -/

namespace Sys2Proof.Statements
open Sys2Proof.Machine

/-- Where the word goes, two bytes are inside memory. -/
theorem fetchAddress_lt (s : State) : s.fetchAddress + 1 < 4096 := by
  unfold State.fetchAddress memSize
  split <;> omega

theorem withFetchWord_pc_toNat (s : State) (n w : Nat) : (s.withFetchWord n w).pc.toNat = s.fetchAddress := by
  have := fetchAddress_lt s
  exact Nat.mod_eq_of_lt (by omega)

theorem runs_withFetchWord (s : State) (n w : Nat) : Runs (s.withFetchWord n w) :=
  ⟨rfl, by rw [withFetchWord_pc_toNat]; exact fetchAddress_lt s⟩

/-- The two bytes at pc are those of the placed word. -/
theorem wordAtPc_withFetchWord (s : State) (w : Word) : wordAtPc (s.withFetchWord 16 w.toNat) = w := by
  have hword : BitVec.ofNat 16 (w.toNat % 2 ^ 16) = w := by
    rw [Nat.mod_eq_of_lt w.isLt, BitVec.ofNat_toNat, BitVec.setWidth_eq]
  have hbytes (a : Nat) : (s.withFetchWord 16 w.toNat).readByte a =
      (s.writeBytes s.fetchAddress [highByte w, lowByte w]).readByte a := by
    unfold State.withFetchWord
    rw [hword]
    rfl
  unfold wordAtPc
  rw [withFetchWord_pc_toNat, hbytes, hbytes, State.readByte_writeBytes, State.readByte_writeBytes]
  simpa [wordOfBytes] using wordOfBytes_bytes w

end Sys2Proof.Statements
end

section
/-! The obligations about memory and the fetch. -/

namespace Sys2Proof.Proofs
open Sys2Proof Sys2Proof.Machine Sys2Proof.Statements

/-- Settles O23: the access starts at I, so its first bad address is I itself, or 4096 where I is inside memory. -/
theorem boundsFaultNamesTheFirstBadAddress : Obligations.BoundsFaultNamesTheFirstBadAddress := by
  rintro i s ⟨bad, hbad, hout⟩
  have hfault := exec_bounds_fault i s ⟨by omega, by unfold memSize; omega⟩
  refine ⟨max s.I.toNat 4096, hfault, le_max_right _ _, ⟨4096 - s.I.toNat, by omega, by omega⟩, ?_⟩
  intro k _ hk
  omega

/-- Settles O49: the fetch reads the two bytes at pc, which are those the instruction left. -/
theorem fetchSeesTheStore : Obligations.FetchSeesTheStore := by
  intro i s t u hexec hpc hhigh hlow
  rw [u.fetch_ok hpc, hhigh, hlow, readByte_of_exec_next hexec, readByte_of_exec_next hexec]
  rfl

/-- Settles O6: the step's inputs are not written by the instruction, so the tick is that of the state before. -/
theorem stepRunsTheDecodedInstruction : Obligations.StepRunsTheDecodedInstruction := by
  rintro s i hruns rfl
  refine ⟨fun t hexec => ?_, fun f hexec => step_of_exec_fault hruns hexec⟩
  have hinput : t.stepInput = s.stepInput := (exec_frameOutside _ s t hexec).stepInput_eq
  refine ⟨t.endStep, step_of_exec_next hruns hexec, ?_⟩
  simp [hinput]

/-- Settles O58: the block runs, the word at pc is the placed one, and decoding undoes encoding. -/
theorem placedInstructionRunsNext : Obligations.PlacedInstructionRunsNext := by
  rintro s p i hi rfl
  have hruns := runs_withFetchWord s 16 (encode i).toNat
  have hword := wordAtPc_withFetchWord s (encode i)
  have hdecode : decodeWord (wordAtPc (s.withFetchWord 16 (encode i).toNat)) = i := by
    rw [hword, decodeWord_encode hi]
  refine ⟨hruns, hword, fun t hexec => step_of_exec_next hruns (by rwa [hdecode]),
    fun f hexec => step_of_exec_fault hruns (by rwa [hdecode]), fun _ => rfl, rfl, rfl, rfl, rfl, rfl, rfl, rfl, rfl, rfl⟩

end Sys2Proof.Proofs
end

section
/-! SUPPORT. The words that match no row of the opcode table, told in three ways: by the rows (spec/30_encoding.md R70), by the
classes of R73, by the decoder. The lemmas close the circle: unmatched by the decoder, in a class, matching no row. -/

namespace Sys2Proof.Statements
open Sys2Proof.Machine

theorem nibble0_eq_div (w : Word) : nibble0 w = w.toNat / 4096 := by
  have := w.isLt
  simp only [nibble0, bitField]; omega

/-- The classes in the fields the decoder reads. -/
theorem unmatchedClass_iff_fields (w : Word) : UnmatchedClass w ↔
    (nibble0 w = 0x0 ∧ bitField w 11 0 ∉ [0x0E0, 0x0EE]) ∨
    ((nibble0 w = 0x5 ∨ nibble0 w = 0x9) ∧ nibble3 w ≠ 0) ∨
    (nibble0 w = 0x8 ∧ nibble3 w ∈ [0x8, 0x9, 0xA, 0xB, 0xC, 0xD, 0xF]) ∨
    (nibble0 w = 0xE ∧ bitField w 7 0 ∉ [0x9E, 0xA1]) ∨
    (nibble0 w = 0xF ∧ bitField w 7 0 ∉ [0x07, 0x0A, 0x15, 0x18, 0x1E, 0x29, 0x33, 0x55, 0x65]) := by
  simp [UnmatchedClass, nibble0_eq_div, nibble3, bitField]

/-- The decoder answers `unmatched` with the word it was given. -/
theorem eq_of_decodeWord_unmatched {w w' : Word} (h : decodeWord w = .unmatched w') : w' = w := by
  have hword := encode_decodeWord w
  rwa [h] at hword

/-- Every branch of the decoder that answers `unmatched` is one of the classes. -/
theorem unmatchedClass_of_decodeWord {w w' : Word} (h : decodeWord w = .unmatched w') : UnmatchedClass w := by
  rw [unmatchedClass_iff_fields]
  unfold decodeWord at h
  split at h
  case h_1 h0 =>
    have hlow : bitField w 11 0 = w.toNat := by
      have := toNat_eq_nibbles w
      rw [nnn_eq_nibbles]; omega
    split_ifs at h with hcls hret
    refine .inl ⟨h0, ?_⟩
    rw [BitVec.toNat_eq] at hcls hret
    simp only [BitVec.toNat_ofNat] at hcls hret
    simp only [hlow, List.mem_cons, List.not_mem_nil, or_false]
    omega
  case h_6 h0 | h_10 h0 =>
    split_ifs at h with h3
    exact .inr (.inl ⟨by simp [h0], h3⟩)
  case h_9 h0 =>
    have := nibble3_lt w
    split at h
    case h_10 =>
      refine .inr (.inr (.inl ⟨h0, ?_⟩))
      simp only [imp_false] at *
      simp only [List.mem_cons, List.not_mem_nil, or_false]
      omega
    all_goals cases h
  case h_15 h0 =>
    split at h
    case h_3 => exact .inr (.inr (.inr (.inl ⟨h0, by simp only [imp_false] at *; simp [*]⟩)))
    all_goals cases h
  case h_16 =>
    have hlt := nibble0_lt w
    have h0 : nibble0 w = 0xF := by
      simp only [imp_false] at *
      omega
    split at h
    case h_10 => exact .inr (.inr (.inr (.inr ⟨h0, by simp only [imp_false] at *; simp [*]⟩)))
    all_goals cases h
  all_goals cases h

/-- A field that a row's mask covers whole is the row's own. -/
theorem bitField_eq_of_matches {r : OpcodeRow} {w : Word} {hi lo : Nat} (h : r.Matches w)
    (hmask : bitField r.mask hi lo = 2 ^ (hi - lo + 1) - 1) : bitField w hi lo = bitField r.value hi lo := by
  rw [← h, bitField_and, hmask, Nat.and_two_pow_sub_one_eq_mod]
  simp [bitField]

/-- Every row fixes the first nibble. -/
theorem nibble0_eq_of_matches {r : OpcodeRow} {w : Word} (hr : r ∈ opcodeTable) (h : r.Matches w) :
    nibble0 w = nibble0 r.value := by
  have hmask : ∀ r ∈ opcodeTable, bitField r.mask 15 12 = 15 := by decide
  exact bitField_eq_of_matches h (hmask r hr)

/-- A word that matches a row has one of the selector values that the rows of its first nibble fix. -/
theorem bitField_mem_of_matches {r : OpcodeRow} {w : Word} {n hi lo : Nat} {selectors : List Nat}
    (hrows : ∀ r ∈ opcodeTable, nibble0 r.value = n →
      bitField r.mask hi lo = 2 ^ (hi - lo + 1) - 1 ∧ bitField r.value hi lo ∈ selectors)
    (hr : r ∈ opcodeTable) (h : r.Matches w) (hn : nibble0 w = n) : bitField w hi lo ∈ selectors := by
  obtain ⟨hmask, hmem⟩ := hrows r hr (by rw [← nibble0_eq_of_matches hr h, hn])
  rwa [bitField_eq_of_matches h hmask]

/-- No word of a class matches a row: its selector is none of those the rows of its first nibble fix. -/
theorem matchesNoRow_of_unmatchedClass {w : Word} (hw : UnmatchedClass w) : MatchesNoRow w := by
  intro r hr h
  rw [unmatchedClass_iff_fields] at hw
  obtain ⟨h0, hsel⟩ | ⟨h0, hsel⟩ | ⟨h0, hsel⟩ | ⟨h0, hsel⟩ | ⟨h0, hsel⟩ := hw
  · exact hsel (bitField_mem_of_matches (by decide) hr h h0)
  · have hzero : nibble3 w ∈ [0] := by
      rcases h0 with h0 | h0 <;> exact bitField_mem_of_matches (by decide) hr h h0
    exact hsel (List.mem_singleton.1 hzero)
  · have hfixed : nibble3 w ∈ [0x0, 0x1, 0x2, 0x3, 0x4, 0x5, 0x6, 0x7, 0xE] :=
      bitField_mem_of_matches (by decide) hr h h0
    simp only [List.mem_cons, List.not_mem_nil, or_false] at hsel hfixed
    omega
  · exact hsel (bitField_mem_of_matches (by decide) hr h h0)
  · exact hsel (bitField_mem_of_matches (by decide) hr h h0)

theorem matchesNoRow_of_decodeWord {w w' : Word} (h : decodeWord w = .unmatched w') : MatchesNoRow w :=
  matchesNoRow_of_unmatchedClass (unmatchedClass_of_decodeWord h)

theorem unmatchedClass_iff_decodeWord (w : Word) : UnmatchedClass w ↔ decodeWord w = .unmatched w :=
  ⟨fun hw => decodeWord_of_matchesNoRow (matchesNoRow_of_unmatchedClass hw), unmatchedClass_of_decodeWord⟩

theorem wellFormed_of_matchesNoRow {i : Instr} (h : ∀ w, i = .unmatched w → MatchesNoRow w) : i.wellFormed = true := by
  cases i with
  | unmatched w => exact decide_eq_true (h w rfl)
  | _ => rfl

theorem decodeWord_wellFormed (w : Word) : (decodeWord w).wellFormed = true := by
  refine wellFormed_of_matchesNoRow fun w' h => ?_
  obtain rfl := eq_of_decodeWord_unmatched h
  exact matchesNoRow_of_decodeWord h

end Sys2Proof.Statements
end

section
/-! SUPPORT. The rows of the opcode table against the decoder (spec/30_encoding.md R70, R71). -/

namespace Sys2Proof.Statements
open Sys2Proof.Machine

/-- Two rows that agree on the bits both fix are the same row, so no word matches two (R71). -/
theorem row_unique {w : Word} {r q : OpcodeRow} (hr : r ∈ opcodeTable) (hq : q ∈ opcodeTable)
    (hrw : r.Matches w) (hqw : q.Matches w) : r = q := by
  have hdisjoint : ∀ r ∈ opcodeTable, ∀ q ∈ opcodeTable, r.value &&& q.mask = q.value &&& r.mask → r = q := by decide
  refine hdisjoint r hr q hq ?_
  rw [← hrw, ← hqw, BitVec.and_assoc, BitVec.and_assoc, BitVec.and_comm r.mask]

theorem find?_mnemonic {r : OpcodeRow} (hr : r ∈ opcodeTable) :
    opcodeTable.find? (fun q => q.mnemonic == r.mnemonic) = some r := by
  have hfirst : ∀ r ∈ opcodeTable, opcodeTable.find? (fun q => q.mnemonic == r.mnemonic) = some r := by decide
  exact hfirst r hr

/-- The word of an instruction matches the row that bears its mnemonic. -/
theorem matches_encode_of_mnemonic {i : Instr} {r : OpcodeRow} (hr : r ∈ opcodeTable) (h : i.mnemonic = r.mnemonic) :
    r.Matches (encode i) := by
  have hrow := Laws.EncodingMatchesRow.statement i
  rwa [Laws.EncodingMatchesRow.Statement, h, find?_mnemonic hr] at hrow

/-- A word that matches a row decodes to an instruction that has a row; the word matches that one too, so it is the same. -/
theorem mnemonic_of_matches {w : Word} {r : OpcodeRow} (hr : r ∈ opcodeTable) (h : r.Matches w) :
    (decodeWord w).mnemonic = r.mnemonic := by
  have hmatched : ∀ w', decodeWord w ≠ .unmatched w' := fun w' hw => matchesNoRow_of_decodeWord hw r hr h
  obtain ⟨q, hfind⟩ := Option.isSome_iff_exists.1 (mnemonic_in_opcodeTable hmatched)
  have hq : q ∈ opcodeTable := List.mem_of_find?_eq_some hfind
  have hname : q.mnemonic = (decodeWord w).mnemonic := by simpa using List.find?_some hfind
  have hqw : q.Matches w := encode_decodeWord w ▸ matches_encode_of_mnemonic hq hname.symm
  rw [← hname, row_unique hr hq h hqw]

end Sys2Proof.Statements
end

section
/-! SUPPORT. An instruction that does not fault completes (spec/60_exceptions.md R144, R149). -/

namespace Sys2Proof.Machine

/-- An access that ends above memory is the table's cause of a bounds fault (R147). -/
theorem faultCause_bounds {i : Instr} {s : State} (hret : i ≠ .ret) (hcall : ∀ nnn, i ≠ .callNnn nnn)
    (hout : 0 < accessLength i ∧ memSize < s.I.toNat + accessLength i) :
    faultCause i s = some (.memoryBounds s.pc (max s.I.toNat memSize)) := by
  unfold faultCause
  rw [if_neg (fun h => hret h.1), if_neg (fun h => h.1.elim hcall), if_pos hout]

theorem faultCause_ret_empty {s : State} (h : s.stack = []) : faultCause .ret s = some (.stackUnderflow s.pc) := by
  simp [faultCause, h]

theorem faultCause_callNnn_full {nnn : Addr} {s : State} (h : s.config.stackDepth = some s.stack.length) :
    faultCause (.callNnn nnn) s = some (.stackOverflow s.pc) := by
  simp [faultCause, h]

theorem exec_ldVxK_completes (x : Reg) (s : State) : ∃ t, exec (.ldVxK x) s = .next t := by
  cases hkey : s.pendingKey with
  | some k => exact ⟨_, exec_ldVxK_key x s k hkey⟩
  | none => exact ⟨_, exec_ldVxK_wait x s hkey⟩

/-- The two ways an instruction ends: it completes, or it raises the fault of the table. It is never refused. -/
theorem exec_completes_or_faults (i : Instr) (s : State) :
    (∃ t, exec i s = .next t) ∨ ∃ f, exec i s = .fault f ∧ faultCause i s = some f := by
  by_cases hout : 0 < accessLength i ∧ memSize < s.I.toNat + accessLength i
  · have hret : i ≠ .ret := by rintro rfl; exact Nat.lt_irrefl 0 hout.1
    have hcall : ∀ nnn, i ≠ .callNnn nnn := by rintro nnn rfl; exact Nat.lt_irrefl 0 hout.1
    exact .inr ⟨_, exec_bounds_fault i s hout, faultCause_bounds hret hcall hout⟩
  · have hin : accessLength i = 0 ∨ s.I.toNat + accessLength i ≤ memSize := by omega
    cases i with
    | ret =>
      rcases List.eq_nil_or_concat' s.stack with hempty | ⟨st, a, htop⟩
      · exact .inr ⟨_, exec_ret_empty s hempty, faultCause_ret_empty hempty⟩
      · exact .inl ⟨_, exec_ret_top s st a htop⟩
    | callNnn nnn =>
      by_cases hfull : s.config.stackDepth = some s.stack.length
      · exact .inr ⟨_, exec_callNnn_full nnn s hfull, faultCause_callNnn_full hfull⟩
      · exact .inl ⟨_, exec_callNnn_room nnn s hfull⟩
    | ldVxK x => exact .inl (exec_ldVxK_completes x s)
    | drwVxVyN x y n => exact .inl ⟨_, exec_drwVxVyN_ok x y n s hin⟩
    | ldBVx x => exact .inl ⟨_, exec_ldBVx_ok x s (hin.resolve_left (by simp [accessLength]))⟩
    | ldMemVx x => exact .inl ⟨_, exec_ldMemVx_ok x s (hin.resolve_left (by simp [accessLength]))⟩
    | ldVxMem x => exact .inl ⟨_, exec_ldVxMem_ok x s (hin.resolve_left (by simp [accessLength]))⟩
    | _ => exact .inl ⟨_, rfl⟩

end Sys2Proof.Machine
end

section
/-! The obligations about the encoding and the decoder. -/

namespace Sys2Proof.Proofs
open Sys2Proof Sys2Proof.Machine Sys2Proof.Statements

/-- Settles O1: the decoder finds each field where the encoder put it, pattern by pattern. -/
theorem decodeOfEncodeIsTheInstruction : Obligations.DecodeOfEncodeIsTheInstruction := fun _ hi => decodeWord_encode hi

/-- Settles O2: each branch of the decoder reads every free field of its pattern, and answers `unmatched` only for a word of a
class of R73. -/
theorem encodeOfDecodeIsTheWord : Obligations.EncodeOfDecodeIsTheWord := fun w =>
  ⟨decodeWord_wellFormed w, encode_decodeWord w⟩

/-- Settles O3: the word of an instruction matches the instruction's own row, and only that one. -/
theorem decoderFollowsMaskAndMatch : Obligations.DecoderFollowsMaskAndMatch := by
  refine ⟨fun w r hr => ⟨mnemonic_of_matches hr, fun hname => ?_⟩, fun w r hr q hq => row_unique hr hq⟩
  exact encode_decodeWord w ▸ matches_encode_of_mnemonic hr hname

/-- Settles O5: the classes are the decoder's unmatched branches, and the instruction only moves pc, before the end of the step. -/
theorem unmatchedWordsAreNoOps : Obligations.UnmatchedWordsAreNoOps := by
  refine ⟨unmatchedClass_iff_decodeWord, by decide, fun w s => ?_, fun s hruns hw => ?_⟩
  · exact ⟨s.setPc (s.pc + 2), exec_unmatched w s, rfl, (FrameOutside.refl {} s).setPc _⟩
  · have hexec : exec (decodeWord (wordAtPc s)) s = .next (s.setPc (s.pc + 2)) := by
      rw [(unmatchedClass_iff_decodeWord _).1 hw, exec_unmatched]
    exact ⟨(s.setPc (s.pc + 2)).endStep, step_of_exec_next hruns hexec, rfl, rfl, countDown_toNat _ _, countDown_toNat _ _,
      fun _ => rfl, fun _ => rfl, rfl, rfl, rfl⟩

/-- Settles O21: an instruction completes, or it raises the fault of the table. -/
theorem everyInstructionCompletesOrFaults : Obligations.EveryInstructionCompletesOrFaults := by
  intro i s
  obtain ⟨t, hexec⟩ | ⟨f, hexec, hcause⟩ := exec_completes_or_faults i s
  · exact ⟨by simp [hexec], fun _ => ⟨t, hexec⟩⟩
  · exact ⟨by simp [hexec], by simp [hcause]⟩

/-- Settles O4, by running the decoder on each word. -/
theorem sampleWordsDecode : Obligations.SampleWordsDecode := by
  unfold Obligations.SampleWordsDecode
  decide

end Sys2Proof.Proofs
end

section
/-! SUPPORT. The flag computations read as numbers (spec/43_alu.md R113, R114), and what every flagged result leaves: the result
in VX unless X = 15, and nothing changed but VX, VF and pc. -/

namespace Sys2Proof.Statements
open Sys2Proof.Machine

theorem flagByte_decide_toNat (p : Prop) [Decidable p] : (flagByte (decide p)).toNat = if p then 1 else 0 := by
  rw [flagByte_toNat]
  by_cases hp : p <;> simp [hp]

theorem addFlag_toNat (a b : Byte) : (addFlag a b).toNat = if a.toNat + b.toNat > 255 then 1 else 0 :=
  flagByte_decide_toNat _

/-- The result survives the flag's write, which comes last, where VX is not VF. -/
theorem reg_writeFlagged_result (s : State) {x : Reg} (hx : x ≠ 15) (r f : Byte) : (s.writeFlagged x r f).reg x = r := by
  rw [State.reg_writeFlagged, if_neg (show x ≠ flagReg from hx), if_pos rfl]

theorem writeFlagged_frameOutside (s : State) (x : Reg) (r f : Byte) (a : Word) :
    FrameOutside { regs := [x, 15] } s ((s.writeFlagged x r f).setPc a) :=
  ((FrameOutside.refl _ s).writeFlagged (List.mem_cons_self ..) (List.mem_cons_of_mem x (List.mem_singleton_self _)) r f).setPc a

end Sys2Proof.Statements
end

section
/-! SUPPORT. Where a fault comes from: the transaction that reports it was a step, the step's fetch or its instruction raised it,
and it records the pc (spec/40_execution_cycle.md R82, spec/60_exceptions.md R144 to R151). -/

namespace Sys2Proof.Statements
open Sys2Proof.Machine

variable {s : State} {f : Fault}

theorem faultCause_of_exec_fault {i : Instr} (h : exec i s = .fault f) : faultCause i s = some f := by
  obtain ⟨t, hnext⟩ | ⟨g, hfault, hcause⟩ := exec_completes_or_faults i s
  · simp [hnext] at h
  · rwa [Host.Outcome.fault.inj (h.symm.trans hfault)]

/-- The faults of the table, the fetch's apart, and what each records (R146 to R148). -/
theorem fault_of_faultCause {i : Instr} (h : faultCause i s = some f) :
    f = .stackUnderflow s.pc ∨ f = .stackOverflow s.pc ∨ ∃ a, 4096 ≤ a ∧ f = .memoryBounds s.pc a := by
  unfold faultCause at h
  split_ifs at h
  · exact .inl (Option.some.inj h).symm
  · exact .inr (.inl (Option.some.inj h).symm)
  · exact .inr (.inr ⟨_, le_max_right _ _, (Option.some.inj h).symm⟩)

/-- A step that faults was not paused, and either its fetch raised DecodeFault or the decoded instruction raised the fault. -/
theorem step_fault (h : step s = .fault f) :
    (s.paused = false ∧ memSize ≤ s.pc.toNat + 1 ∧ f = .decodeFault s.pc) ∨
    (Runs s ∧ exec (decodeWord (wordAtPc s)) s = .fault f) := by
  have hpaused : s.paused = false := by
    by_contra hp
    simp [step_paused s (by simpa using hp)] at h
  by_cases hpc : memSize ≤ s.pc.toNat + 1
  · rw [step_fetch_fault s hpaused hpc] at h
    exact .inl ⟨hpaused, hpc, (Host.Outcome.fault.inj h).symm⟩
  · have hruns : Runs s := ⟨hpaused, Nat.lt_of_not_le hpc⟩
    obtain ⟨t, hnext⟩ | ⟨g, hfault, -⟩ := exec_completes_or_faults (decodeWord (wordAtPc s)) s
    · simp [step_of_exec_next hruns hnext] at h
    · rw [step_of_exec_fault hruns hfault] at h
      exact .inr ⟨hruns, Host.Outcome.fault.inj h ▸ hfault⟩

theorem step_fault_recordsPc (h : step s = .fault f) :
    f = .decodeFault s.pc ∨ f = .stackUnderflow s.pc ∨ (∃ a, 4096 ≤ a ∧ f = .memoryBounds s.pc a) ∨ f = .stackOverflow s.pc := by
  obtain ⟨-, -, hdecode⟩ | ⟨-, hexec⟩ := step_fault h
  · exact .inl hdecode
  · obtain hunder | hover | hbounds := fault_of_faultCause (faultCause_of_exec_fault hexec)
    · exact .inr (.inl hunder)
    · exact .inr (.inr (.inr hover))
    · exact .inr (.inr (.inl hbounds))

theorem stepWith_paused (inp : StepInput) (h : s.paused = true) : stepWith inp s = .next s := if_pos h

theorem step_of_stepWith_fault {inp : StepInput} (h : stepWith inp s = .fault f) : step (s.withInput inp) = .fault f := by
  unfold stepWith at h
  split at h
  case isTrue => cases h
  case isFalse => exact h

theorem resetProgram_ne_fault (s : State) (program : List Byte) (now : Time) (f : Fault) :
    s.resetProgram program now ≠ .fault f := by
  unfold State.resetProgram
  split <;> nofun

/-- A fault is reported exactly as it was raised, and the state is the one before. -/
theorem settle_fault {o : Host.Outcome State Fault Refusal} (h : (settle s o).2 = .fault f) :
    o = .fault f ∧ settle s o = (s, .fault f) := by
  cases o with
  | fault g => obtain rfl : g = f := Report.fault.inj h; exact ⟨rfl, rfl⟩
  | next t => cases h
  | refused r => cases h

/-- Of the transactions only a step faults, and then it leaves the state as it was (R82, R151). -/
theorem runTransaction_fault {tr : Transaction} (h : (runTransaction tr s).2 = .fault f) :
    (∃ inp, tr = .step inp ∧ stepWith inp s = .fault f) ∧ runTransaction tr s = (s, .fault f) := by
  cases tr with
  | step inp =>
    obtain ⟨hstep, hsettled⟩ := settle_fault h
    exact ⟨⟨inp, rfl, hstep⟩, hsettled⟩
  | reset program now => exact absurd (settle_fault h).1 (resetProgram_ne_fault s program now f)
  | setKey | clearKey | togglePause => cases h

end Sys2Proof.Statements
end

section
/-! The obligations about the execution cycle. -/

namespace Sys2Proof.Proofs
open Sys2Proof Sys2Proof.Machine Sys2Proof.Statements

/-- Settles O18: the instructions that can fault advance where they complete, and the key read where a key is pending. -/
theorem otherInstructionsAdvanceByTwo : Obligations.OtherInstructionsAdvanceByTwo := by
  intro i s t hredirects hret hkey h
  cases i with
  | jpNnn | callNnn | jpV0Nnn | seVxNn | sneVxNn | seVxVy | sneVxVy | skpVx | sknpVx => exact (hredirects trivial).elim
  | ret => exact absurd rfl hret
  | ldVxK x =>
    obtain ⟨k, -, rfl⟩ | ⟨hwait, -⟩ := exec_ldVxK_next h
    · rfl
    · exact absurd hwait (hkey x rfl)
  | drwVxVyN x y n => obtain ⟨-, rfl⟩ := exec_drwVxVyN_next h; rfl
  | ldBVx x => obtain ⟨-, rfl⟩ := exec_ldBVx_next h; rfl
  | ldMemVx x => obtain ⟨-, rfl⟩ := exec_ldMemVx_next h; rfl
  | ldVxMem x => obtain ⟨-, rfl⟩ := exec_ldVxMem_next h; rfl
  | cls | ldVxNn | addVxNn | ldVxVy | orVxVy | andVxVy | xorVxVy | addVxVy | subVxVy | shrVxVy | subnVxVy | shlVxVy
  | ldINnn | rndVxNn | ldVxDt | ldDtVx | ldStVx | addIVx | ldFVx | unmatched =>
    cases h; rfl

/-- Settles O24: a fault is settled with the state before, so the same transaction meets the same state again. -/
theorem faultLeavesTheStateAndRepeats : Obligations.FaultLeavesTheStateAndRepeats := by
  intro tr s f h
  obtain ⟨⟨inp, -, hstep⟩, hrun⟩ := runTransaction_fault h
  have hstate : (runTransaction tr s).1 = s := by rw [hrun]
  have hrecords := step_fault_recordsPc (step_of_stepWith_fault hstep)
  exact ⟨hstate, by rw [hstate, hrun], hrecords⟩

/-- Settles O39: both operands are read before the sum is written, and the flag is written after it. -/
theorem addRegistersSaturatesWithFlag : Obligations.AddRegistersSaturatesWithFlag := by
  intro s x y
  refine ⟨_, exec_addVxVy x y s, fun hx => ?_, ?_, rfl, writeFlagged_frameOutside s x _ _ _⟩
  · rw [State.setPc_reg, reg_writeFlagged_result s hx, addSat_toNat]
  · rw [State.setPc_reg, State.reg15_writeFlagged, addFlag_toNat]

/-- Settles O7: the pause is tested before the host's inputs are taken. -/
theorem pausedStepChangesNothing : Obligations.PausedStepChangesNothing := by
  intro s inp hpaused
  refine ⟨step_paused s hpaused, ?_⟩
  show settle s (stepWith inp s) = (s, .ok)
  rw [stepWith_paused inp hpaused]
  rfl

/-- Settles O57: each transaction is one record update, of the latch's two fields or of `paused`. -/
theorem latchAndPauseTransactions : Obligations.LatchAndPauseTransactions := fun s k =>
  ⟨⟨s.setKey k, rfl, rfl, rfl, rfl⟩, ⟨s.clearKey, rfl, rfl, rfl, rfl⟩, ⟨s.togglePause, rfl, rfl, rfl⟩⟩

end Sys2Proof.Proofs
end

section
/-! SUPPORT. The display in the terms the statements use: a bit of a byte by its shift (spec/00_scope.md R11), the pixels and the
flag of a completed sprite draw by `spriteOn` (spec/41_display.md R100, R101), the export as the rows one after the other (R98). -/

namespace Sys2Proof.Statements
open Sys2Proof.Machine

variable {s t : State} {x y : Reg} {n : Nibble}

theorem pixelBit_eq_shiftRight (b : Byte) (p : Nat) : pixelBit b p = ((b.toNat >>> (7 - p)) &&& 1 == 1) := by
  rw [Nat.shiftRight_eq_div_pow, Nat.and_one_is_mod]
  rfl

theorem columnBit_add (b : Byte) {x p : Nat} (hp : p < 8) (hx : x + p < 64) : columnBit b x (x + p) = pixelBit b p := by
  simp [columnBit, hp, hx]

theorem columnBit_of_outside (b : Byte) {x c : Nat} (h : c < x ∨ x + 8 ≤ c) : columnBit b x c = false := by
  simp only [columnBit, Bool.and_eq_false_imp, decide_eq_true_eq]
  omega

/-- `drawByte`'s report by the bit's number in the byte; `drawByte_collision` says it by the column. -/
theorem drawByte_collision_iff_bit (fb : FrameBuffer) (x y : Nat) (b : Byte) (hy : y < 32) :
    (drawByte fb x y b).2 = true ↔
      ∃ p, p < 8 ∧ pixelBit b p = true ∧ x + p < 64 ∧ fb.get y (x + p) = true :=
  (drawPixels_spec fb x y b hy 8).2

theorem getElem?_readBytes_eq_some (s : State) (a n k : Nat) (b : Byte) :
    (s.readBytes a n)[k]? = some b ↔ k < n ∧ s.readByte (a + k) = b := by
  simp [State.readBytes, List.getElem?_eq_some_iff]

theorem columnBit_iff (b : Byte) (x c : Nat) :
    columnBit b x c = true ↔ x ≤ c ∧ c < x + 8 ∧ c < 64 ∧ (b.toNat >>> (7 - (c - x))) &&& 1 = 1 := by
  simp [columnBit, pixelBit_eq_shiftRight, and_assoc]

theorem spriteBit_iff (bs : List Byte) (x y r c : Nat) :
    spriteBit bs x y r c = true ↔ y ≤ r ∧ r ≤ 31 ∧ ∃ b, bs[r - y]? = some b ∧ columnBit b x c = true := by
  cases hb : bs[r - y]? <;> simp [spriteBit, hb, and_assoc]

/-- `spriteOn` is the bit that the loops of `drawRows` bring to the pixel. -/
theorem spriteBit_readBytes_iff (s : State) (x y : Reg) (n : Nibble) (r c : Nat) :
    spriteBit (s.readBytes s.I.toNat n.val) (s.spriteColumn x) (s.spriteRow y) r c = true ↔ spriteOn s x y n r c := by
  simp only [spriteBit_iff, getElem?_readBytes_eq_some, columnBit_iff, State.spriteColumn, State.spriteRow, spriteOn]
  constructor
  · rintro ⟨hrow, hbottom, b, ⟨hlast, rfl⟩, hbit⟩
    exact ⟨hrow, by omega, by omega, hbit⟩
  · rintro ⟨hrow, hlast, hbottom, hbit⟩
    exact ⟨hrow, by omega, _, ⟨by omega, rfl⟩, hbit⟩

theorem drawSprite_get_of_spriteOn {r c : Nat} (h : spriteOn s x y n r c) :
    (s.drawSprite x y n).1.get r c = !s.FB.get r c := by
  rw [State.drawSprite, drawRows_get, (spriteBit_readBytes_iff s x y n r c).2 h, Bool.xor_true]

theorem drawSprite_get_of_not_spriteOn {r c : Nat} (h : ¬ spriteOn s x y n r c) :
    (s.drawSprite x y n).1.get r c = s.FB.get r c := by
  rw [← spriteBit_readBytes_iff, Bool.not_eq_true] at h
  rw [State.drawSprite, drawRows_get, h, Bool.xor_false]

theorem drawSprite_collision (s : State) (x y : Reg) (n : Nibble) :
    (s.drawSprite x y n).2 = true ↔ ∃ r c, spriteOn s x y n r c ∧ s.FB.get r c = true := by
  simp only [State.drawSprite, drawRows_collision, spriteBit_readBytes_iff]

theorem flagByte_eq_one_iff (f : Bool) : flagByte f = 1 ↔ f = true := by cases f <;> simp [flagByte]

theorem exec_drwVxVyN_I (h : exec (.drwVxVyN x y n) s = .next t) : t.I = s.I := by
  obtain ⟨-, rfl⟩ := exec_drwVxVyN_next h
  rfl

theorem exec_drwVxVyN_FB (h : exec (.drwVxVyN x y n) s = .next t) : t.FB = (s.drawSprite x y n).1 := by
  obtain ⟨-, rfl⟩ := exec_drwVxVyN_next h
  rfl

/-- VF after a completed draw; it is written after the coordinates were read, so X = 15 or Y = 15 makes no difference. -/
theorem exec_drwVxVyN_flag (h : exec (.drwVxVyN x y n) s = .next t) :
    t.reg 15 = 1 ↔ ∃ r c, spriteOn s x y n r c ∧ s.FB.get r c = true := by
  obtain ⟨-, rfl⟩ := exec_drwVxVyN_next h
  rw [State.setPc_reg, State.reg_setReg, if_pos (show flagReg = 15 from rfl), flagByte_eq_one_iff, drawSprite_collision]

/-- A draw moves neither the sprite's bytes nor I. -/
theorem spriteOn_after_draw (h : exec (.drwVxVyN x y n) s = .next t)
    (hx : (t.reg x).toNat % 64 = (s.reg x).toNat % 64) (hy : (t.reg y).toNat % 32 = (s.reg y).toNat % 32) (r c : Nat) :
    spriteOn t x y n r c ↔ spriteOn s x y n r c := by
  have hI := exec_drwVxVyN_I h
  have hmem : ∀ a, t.readByte a = s.readByte a := readByte_of_exec_next h
  simp only [spriteOn, hI, hmem, hx, hy]

theorem exportPixels_eq_flatten (s : State) : s.exportPixels = s.FB.flatten.toList := by
  simp only [State.exportPixels, Vector.flatten, Vector.toList, Array.toList_flatten, Array.toList_map, List.map_map]
  rfl

end Sys2Proof.Statements
end

section
/-! The obligations about the display. -/

namespace Sys2Proof.Proofs
open Sys2Proof Sys2Proof.Machine Sys2Proof.Statements

/-- Settles O25: the framebuffer is replaced by the cleared one, and only it. -/
theorem clearScreenTurnsEveryPixelOff : Obligations.ClearScreenTurnsEveryPixelOff := fun s =>
  ⟨_, exec_cls s, fun r c _ _ => FrameBuffer.get_cleared r c, rfl, exec_frameOutside .cls s _ (exec_cls s)⟩

/-- Settles O26: the bit of column x + p is bit p of the byte, and no other pixel has one. -/
theorem drawByteXorsClipsAndReports : Obligations.DrawByteXorsClipsAndReports := by
  intro fb x y b _ hy
  refine ⟨fun p hp hx => ?_, fun r c _ _ hout => ?_, ?_⟩
  · rw [drawByte_get fb x y b hy, columnBit_add b hp hx, pixelBit_eq_shiftRight]
    simp
  · rw [drawByte_get fb x y b hy]
    rcases hout with hrow | hcol
    · simp [hrow]
    · simp [columnBit_of_outside b hcol]
  · simp only [drawByte_collision_iff_bit fb x y b hy, pixelBit_eq_shiftRight, beq_iff_eq, and_left_comm]

/-- Settles O27: with the addresses in memory the draw completes; its pixels and flag are those of `spriteOn`, and VF, if not 1,
is 0 as a flag byte. -/
theorem drawSpriteXorsAndReportsCollision : Obligations.DrawSpriteXorsAndReportsCollision := by
  intro s x y n hin
  have hbounds : n.val = 0 ∨ s.I.toNat + n.val ≤ memSize := by
    have hlast := hin (n.val - 1)
    unfold memSize
    omega
  have hexec := exec_drwVxVyN_ok x y n s hbounds
  have hflag := exec_drwVxVyN_flag hexec
  have hbit := flagWritersLeaveZeroOrOne (.drwVxVyN x y n) s _ trivial hexec
  exact ⟨_, hexec, fun r c _ _ => ⟨drawSprite_get_of_spriteOn, drawSprite_get_of_not_spriteOn⟩, hflag.2,
    fun hnone => hbit.resolve_right (mt hflag.1 hnone), rfl, exec_frameOutside _ s _ hexec⟩

/-- Settles O28: the first draw leaves the sprite as it was, so the second turns the same pixels, each of them back. -/
theorem drawingTwiceRestoresThePixels : Obligations.DrawingTwiceRestoresThePixels := by
  intro s t x y n h hx hy
  have hsprite := spriteOn_after_draw h hx hy
  have hFB := exec_drwVxVyN_FB h
  obtain ⟨hbounds, -⟩ := exec_drwVxVyN_next h
  have hexec := exec_drwVxVyN_ok x y n t (by rwa [exec_drwVxVyN_I h])
  refine ⟨_, hexec, ?_, ?_⟩
  · rw [exec_drwVxVyN_FB hexec]
    refine FrameBuffer.ext_get _ _ fun r c _ _ => ?_
    by_cases hon : spriteOn s x y n r c
    · rw [drawSprite_get_of_spriteOn ((hsprite r c).2 hon), hFB, drawSprite_get_of_spriteOn hon, Bool.not_not]
    · rw [drawSprite_get_of_not_spriteOn (mt (hsprite r c).1 hon), hFB, drawSprite_get_of_not_spriteOn hon]
  · rw [exec_drwVxVyN_flag hexec]
    have hturned : ∀ r c, spriteOn t x y n r c ∧ t.FB.get r c = true ↔ spriteOn s x y n r c ∧ s.FB.get r c = false := by
      intro r c
      rw [hsprite, hFB]
      refine and_congr_right fun hon => ?_
      rw [drawSprite_get_of_spriteOn hon, Bool.not_eq_true']
    simp only [hturned]

/-- Settles O29: element 64 r + c of the 32 rows of 64 pixels is in row (64 r + c) / 64 = r, at column (64 r + c) mod 64 = c. -/
theorem exportIsRowMajor : Obligations.ExportIsRowMajor := by
  intro s
  rw [exportPixels_eq_flatten]
  refine ⟨Vector.length_toList, fun r c hr hc => ?_⟩
  have hrow : (64 * r + c) / 64 = r := by omega
  have hcol : (64 * r + c) % 64 = c := by omega
  rw [Vector.getElem?_toList, Vector.getElem?_flatten, dif_pos (by omega)]
  simp [FrameBuffer.get, hr, hc, hrow, hcol]

end Sys2Proof.Proofs
end

section
/-! SUPPORT. The operands of control transfer: the register `BNNN` adds in each mode, and the pc every skip leaves
(spec/42_flow.md R106, R107). -/

namespace Sys2Proof.Statements
open Sys2Proof.Machine

variable {s : State}

theorem addrReg_eq_of_val_eq {nnn : Addr} {x : Reg} (hx : x.val = nnn.toNat / 256) : addrReg nnn = x := by
  apply Fin.ext
  simp only [addrReg, Fin.val_ofNat]
  omega

theorem jumpOffset_legacy (nnn : Addr) (hq : s.config.quirk = false) : s.jumpOffset nnn = s.reg 0 := by
  simp [State.jumpOffset, hq]

theorem jumpOffset_quirk {nnn : Addr} {x : Reg} (hq : s.config.quirk = true) (hx : x.val = nnn.toNat / 256) :
    s.jumpOffset nnn = s.reg x := by
  simp [State.jumpOffset, hq, addrReg_eq_of_val_eq hx]

/-- An instruction that only chooses pc by a test `c` is a skip on the condition that `c` tests. -/
theorem skip_completes {i : Instr} {c : Bool} {p : Prop} [Decidable p] (hc : c = true ↔ p)
    (hexec : exec i s = .next (s.setPc (if c then s.pc + 4 else s.pc + 2))) :
    ∃ t, exec i s = .next t ∧ t.pc = (if p then s.pc + 4 else s.pc + 2) ∧ FrameOutside {} s t :=
  ⟨_, hexec, if_congr hc rfl rfl, (FrameOutside.refl {} s).setPc _⟩

end Sys2Proof.Statements
end

section
/-! The obligations about control transfer and skips. -/

namespace Sys2Proof.Proofs
open Sys2Proof Sys2Proof.Machine Sys2Proof.Statements

/-- Settles O33: the call's completion shows its own address on top of the stack, and the return takes it from there. -/
theorem callThenReturnResumes : Obligations.CallThenReturnResumes := by
  intro s t u nnn hcall hstack
  obtain ⟨-, rfl⟩ := exec_callNnn_next hcall
  have htop : u.stack = s.stack ++ [s.pc] := hstack
  exact ⟨_, exec_ret_top u s.stack s.pc htop, rfl, by simp [htop]⟩

/-- Settles O34: the sum of a 12-bit and an 8-bit number fits pc, and the mode chooses the register. -/
theorem offsetJumpByMode : Obligations.OffsetJumpByMode := by
  intro s nnn
  refine ⟨_, exec_jpV0Nnn nnn s, fun hq => ?_, fun hq x hx => ?_, exec_frameOutside _ s _ (exec_jpV0Nnn nnn s)⟩
  · rw [State.setPc_pc, offsetTarget_toNat, jumpOffset_legacy nnn hq]
  · rw [State.setPc_pc, offsetTarget_toNat, jumpOffset_quirk hq hx]

/-- Settles O30: the popped address is the stack's last element, and what the pop leaves is the stack below it. -/
theorem returnResumesAfterTheCall : Obligations.ReturnResumesAfterTheCall := by
  intro s below a htop
  have hexec := exec_ret_top s below a htop
  exact ⟨_, hexec, by simp [htop], rfl, exec_frameOutside .ret s _ hexec⟩

/-- Settles O31: the target is the zero-extended address, with no condition on its parity. -/
theorem jumpSetsPc : Obligations.JumpSetsPc := fun s nnn =>
  ⟨_, exec_jpNnn nnn s, addrWord_toNat nnn, exec_frameOutside _ s _ (exec_jpNnn nnn s)⟩

/-- Settles O32: the stack's depth alone decides between the push with the jump and the fault. -/
theorem callPushesItsOwnAddress : Obligations.CallPushesItsOwnAddress := by
  refine fun s nnn => ⟨fun hroom => ?_, exec_callNnn_full nnn s⟩
  have hexec := exec_callNnn_room nnn s hroom
  exact ⟨_, hexec, rfl, addrWord_toNat nnn, exec_frameOutside _ s _ hexec⟩

/-- Settles O35: each of the four is a skip on its own comparison. -/
theorem skipsMovePcByFourOrTwo : Obligations.SkipsMovePcByFourOrTwo := fun s x y nn =>
  ⟨skip_completes beq_iff_eq (exec_seVxNn x nn s), skip_completes bne_iff_ne (exec_sneVxNn x nn s),
    skip_completes beq_iff_eq (exec_seVxVy x y s), skip_completes bne_iff_ne (exec_sneVxVy x y s)⟩

end Sys2Proof.Proofs
end

section
/-! SUPPORT. The shape the register and ALU instructions share (spec/43_alu.md R114 to R126): a result written to VX and pc past
the instruction, with a flag written to VF last or with no flag; and the clamped differences, the bits shifted out and the
random byte as the statements write them. -/

namespace Sys2Proof.Statements
open Sys2Proof.Machine

variable {i : Instr} {s : State} {x : Reg}

theorem setReg_frameOutside (s : State) (x : Reg) (b : Byte) (a : Word) :
    FrameOutside { regs := [x] } s ((s.setReg x b).setPc a) :=
  ((FrameOutside.refl _ s).setReg (List.mem_singleton_self x) b).setPc a

/-- An instruction that only writes VX and advances. -/
theorem setReg_completes {b : Byte} (hexec : exec i s = .next ((s.setReg x b).setPc (s.pc + 2))) :
    ∃ t, exec i s = .next t ∧ t.reg x = b ∧ t.pc = s.pc + 2 ∧ FrameOutside { regs := [x] } s t := by
  refine ⟨_, hexec, ?_, rfl, setReg_frameOutside s x b _⟩
  rw [State.setPc_reg, State.reg_setReg, if_pos rfl]

/-- `setReg_completes`, with the value written told bit by bit. -/
theorem setReg_completes_bitwise {b : Byte} {bit : Nat → Bool}
    (hexec : exec i s = .next ((s.setReg x b).setPc (s.pc + 2))) (hbit : ∀ k, b.getLsbD k = bit k) :
    ∃ t, exec i s = .next t ∧ (∀ k, (t.reg x).getLsbD k = bit k) ∧ t.pc = s.pc + 2 ∧
      FrameOutside { regs := [x] } s t := by
  obtain ⟨t, ht, hreg, hrest⟩ := setReg_completes hexec
  exact ⟨t, ht, fun k => by rw [hreg, hbit], hrest⟩

/-- An instruction that writes a result to VX, then a flag to VF, and advances: with X = 15 the flag stays (D4, log 12). -/
theorem writeFlagged_completes {r f : Byte} {m n : Nat}
    (hexec : exec i s = .next ((s.writeFlagged x r f).setPc (s.pc + 2))) (hr : r.toNat = m) (hf : f.toNat = n) :
    ∃ t, exec i s = .next t ∧ (x ≠ 15 → (t.reg x).toNat = m) ∧ (t.reg 15).toNat = n ∧ t.pc = s.pc + 2 ∧
      FrameOutside { regs := [x, 15] } s t := by
  refine ⟨_, hexec, fun hx => ?_, ?_, rfl, writeFlagged_frameOutside s x r f _⟩
  · rw [State.setPc_reg, reg_writeFlagged_result s hx, hr]
  · rw [State.setPc_reg, State.reg15_writeFlagged, hf]

theorem subClamp_toNat_eq_ite (a b : Byte) :
    (subClamp a b).toNat = if a.toNat > b.toNat then a.toNat - b.toNat else 0 := by
  rw [subClamp_toNat]
  split <;> omega

theorem subFlag_toNat (a b : Byte) : (subFlag a b).toNat = if a.toNat > b.toNat then 1 else 0 :=
  flagByte_decide_toNat _

theorem shiftRightFlag_toNat (v : Byte) : (shiftRightFlag v).toNat = v.toNat % 2 := by
  rw [shiftRightFlag, flagByte_decide_toNat]
  split <;> omega

theorem shiftLeftFlag_toNat (v : Byte) : (shiftLeftFlag v).toNat = v.toNat / 128 := by
  have hv : v.toNat < 256 := v.isLt
  rw [shiftLeftFlag, flagByte_decide_toNat]
  split <;> omega

theorem stepInput_of_inputs_cons {inp : StepInput} {later : List StepInput} (h : s.inputs = inp :: later) :
    s.stepInput = inp := by
  rw [State.stepInput, h]

end Sys2Proof.Statements
end

section
/-! The obligations about the registers and the ALU. -/

namespace Sys2Proof.Proofs
open Sys2Proof Sys2Proof.Machine Sys2Proof.Statements

/-- Settles O40: the two differ only in the order of the operands, both read before the write. -/
theorem subtractionsClampWithStrictFlag : Obligations.SubtractionsClampWithStrictFlag := fun s x y =>
  ⟨writeFlagged_completes (exec_subVxVy x y s) (subClamp_toNat_eq_ite _ _) (subFlag_toNat _ _),
    writeFlagged_completes (exec_subnVxVy x y s) (subClamp_toNat_eq_ite _ _) (subFlag_toNat _ _)⟩

/-- Settles O41: `v` is the model's shift source in either mode, and the flag is the bit that leaves it. -/
theorem shiftsMoveOneBitIntoVF : Obligations.ShiftsMoveOneBitIntoVF := by
  intro s x y v hv
  have hsource : s.shiftSource x y = v := hv.symm
  subst hsource
  exact ⟨writeFlagged_completes (exec_shrVxVy x y s) (shiftRight_toNat _) (shiftRightFlag_toNat _),
    writeFlagged_completes (exec_shlVxVy x y s) (shiftLeft_toNat _) (shiftLeftFlag_toNat _)⟩

/-- Settles O36: each is one write of VX, of the immediate or of VY as it was. -/
theorem loadAndCopyWriteOnlyVX : Obligations.LoadAndCopyWriteOnlyVX := fun s x y nn =>
  ⟨setReg_completes (exec_ldVxNn x nn s), setReg_completes (exec_ldVxVy x y s)⟩

/-- Settles O37: the value written is the saturating sum, and VX is the only register written. -/
theorem addImmediateSaturates : Obligations.AddImmediateSaturates := by
  intro s x nn
  obtain ⟨t, hexec, hreg, hrest⟩ := setReg_completes (exec_addVxNn x nn s)
  exact ⟨t, hexec, by rw [hreg, addSat_toNat], hrest⟩

/-- Settles O38: each bit of the value written comes from the same bit of both operands. -/
theorem logicOperationsAreBitwise : Obligations.LogicOperationsAreBitwise := fun s x y =>
  ⟨setReg_completes_bitwise (exec_orVxVy x y s) fun _ => BitVec.getLsbD_or,
    setReg_completes_bitwise (exec_andVxVy x y s) fun _ => BitVec.getLsbD_and,
    setReg_completes_bitwise (exec_xorVxVy x y s) fun _ => BitVec.getLsbD_xor⟩

/-- Settles O42: the byte is the step's input, whoever supplies it, and the mask clears every bit outside NN. -/
theorem randomByteIsMasked : Obligations.RandomByteIsMasked := by
  intro s x nn
  obtain ⟨t, hexec, hreg, hrest⟩ := setReg_completes (exec_rndVxNn x nn s)
  refine ⟨t, hexec, hreg, ?_, fun inp later hinputs => ?_, hrest⟩
  · rw [hreg, BitVec.and_assoc, BitVec.and_not_self]
    exact BitVec.and_zero
  · rw [hreg, stepInput_of_inputs_cons hinputs]

end Sys2Proof.Proofs
end

section
/-! SUPPORT. The index register and the memory instructions in the terms the statements use: the decimal digits as numbers
(spec/44_index_memory.md R130), I after a block transfer in each mode, and the bytes and registers that a completed block transfer
leaves (R131, R132). -/

namespace Sys2Proof.Statements
open Sys2Proof.Machine

variable {w : Writes} {i : Instr} {s t : State} {x k : Reg}

/-- A frame that shuts I out holds where I may be written as well. -/
theorem FrameOutside.allowI (h : FrameOutside w s t) : FrameOutside { w with index := true } s t := by
  obtain ⟨hregs, hmem, -, hrest⟩ := h
  exact ⟨hregs, hmem, Bool.noConfusion, hrest⟩

/-- An instruction that only writes I and advances. -/
theorem setI_completes {a : Word} {n : Nat} (hexec : exec i s = .next ((s.setI a).setPc (s.pc + 2))) (ha : a.toNat = n) :
    ∃ t, exec i s = .next t ∧ t.I.toNat = n ∧ t.pc = s.pc + 2 ∧ FrameOutside { index := true } s t :=
  ⟨_, hexec, ha, rfl, ((FrameOutside.refl _ s).setI Bool.noConfusion).setPc _⟩

/-- Inside memory the legacy increment does not saturate. -/
theorem blockIndex_toNat (hin : s.I.toNat + x.val < 4096) :
    (s.blockIndex x).toNat = if s.config.quirk = true then s.I.toNat else s.I.toNat + x.val + 1 := by
  unfold State.blockIndex
  split
  · rfl
  · rw [sat16_toNat]
    omega

theorem byteAfter_ldBVx_hundreds (s : State) (x : Reg) :
    (byteAfter (.ldBVx x) s s.I.toNat).toNat = (s.reg x).toNat / 100 := by
  have hv : (s.reg x).toNat < 256 := (s.reg x).isLt
  simp only [byteAfter, if_true, BitVec.toNat_ofNat]
  omega

theorem byteAfter_ldBVx_tens (s : State) (x : Reg) :
    (byteAfter (.ldBVx x) s (s.I.toNat + 1)).toNat = (s.reg x).toNat / 10 % 10 := by
  simp only [byteAfter, Nat.add_eq_left, one_ne_zero, if_true, if_false, BitVec.toNat_ofNat]
  omega

theorem byteAfter_ldBVx_units (s : State) (x : Reg) :
    (byteAfter (.ldBVx x) s (s.I.toNat + 2)).toNat = (s.reg x).toNat % 10 := by
  simp only [byteAfter, Nat.add_eq_left, Nat.add_left_cancel_iff, OfNat.ofNat_ne_zero, OfNat.ofNat_ne_one, if_true,
    if_false, BitVec.toNat_ofNat]
  omega

theorem byteAfter_ldMemVx (hk : k.val ≤ x.val) : byteAfter (.ldMemVx x) s (s.I.toNat + k.val) = s.reg k := by
  simp [byteAfter, hk]

/-- A completed block load has VK from address I + K, for every K up to X (R132). -/
theorem exec_ldVxMem_reg (h : exec (.ldVxMem x) s = .next t) (hk : k.val ≤ x.val) :
    t.reg k = s.readByte (s.I.toNat + k.val) := by
  obtain ⟨-, rfl⟩ := exec_ldVxMem_next h
  simp [hk]

/-- A block transfer that ends above memory faults, storing and loading alike. -/
theorem block_faults (hi : accessLength i = x.val + 1) (hout : 4096 ≤ s.I.toNat + x.val) :
    ∃ a, exec i s = .fault (.memoryBounds s.pc a) :=
  ⟨_, exec_bounds_fault i s ⟨by omega, by unfold memSize; omega⟩⟩

end Sys2Proof.Statements
end

section
/-! The obligations about the index register and memory. -/

namespace Sys2Proof.Proofs
open Sys2Proof Sys2Proof.Machine Sys2Proof.Statements

/-- Settles O45: the digits read back are those of VX, and the first bad address is the one O23 names. -/
theorem bcdStoresThreeDigits : Obligations.BcdStoresThreeDigits := by
  refine fun s x => ⟨fun hin => ?_, fun hout => ?_⟩
  · have hexec := exec_ldBVx_ok x s hin
    have hread := readByte_of_exec_next hexec
    have hv : (s.reg x).toNat < 256 := (s.reg x).isLt
    exact ⟨_, (s.reg x).toNat / 100, (s.reg x).toNat / 10 % 10, (s.reg x).toNat % 10, hexec,
      by rw [hread, byteAfter_ldBVx_hundreds], by rw [hread, byteAfter_ldBVx_tens], by rw [hread, byteAfter_ldBVx_units],
      by omega, by omega, by omega, by omega, rfl, exec_frameOutside _ s _ hexec⟩
  · obtain ⟨a, hfault, hbad, ⟨k, hk, rfl⟩, hfirst⟩ :=
      boundsFaultNamesTheFirstBadAddress (.ldBVx x) s ⟨2, Nat.lt_succ_self 2, hout⟩
    refine ⟨k, hk, hfault, hbad, fun j hj => ?_⟩
    have hleast := hfirst j (hj.trans hk)
    omega

/-- Settles O46: the bytes are read back as the registers, and the frame is that of the instruction with I left open. -/
theorem storeBlockWritesRegisters : Obligations.StoreBlockWritesRegisters := by
  refine fun s x => ⟨fun hin => ?_, block_faults rfl⟩
  have hexec := exec_ldMemVx_ok x s hin
  exact ⟨_, hexec, fun k hk => by rw [readByte_of_exec_next hexec, byteAfter_ldMemVx hk], blockIndex_toNat hin, rfl,
    (exec_frameOutside _ s _ hexec).allowI⟩

/-- Settles O47: the registers are read from memory as it was, and the frame is that of the instruction with I left open. -/
theorem loadBlockReadsMemory : Obligations.LoadBlockReadsMemory := by
  refine fun s x => ⟨fun hin => ?_, block_faults rfl⟩
  have hexec := exec_ldVxMem_ok x s hin
  exact ⟨_, hexec, fun k hk => exec_ldVxMem_reg hexec hk, blockIndex_toNat hin, rfl,
    (exec_frameOutside _ s _ hexec).allowI⟩

/-- Settles O48: the store's completion shows its addresses in memory, so the load completes and reads what the store left. -/
theorem loadIsInverseOfStore : Obligations.LoadIsInverseOfStore := by
  intro s t u x hstore hmem hconfig hI
  obtain ⟨hin, -⟩ := exec_ldMemVx_next hstore
  have hload := exec_ldVxMem_ok x u (by rwa [hI])
  refine ⟨_, hload, fun k hk => ?_⟩
  calc _ = u.readByte (u.I.toNat + k.val) := exec_ldVxMem_reg hload hk
    _ = t.readByte (s.I.toNat + k.val) := by rw [hI, State.readByte_congr hmem hconfig]
    _ = s.reg k := by rw [readByte_of_exec_next hstore, byteAfter_ldMemVx hk]

/-- Settles O43: each is one write of I, and its value fits 16 bits. -/
theorem indexLoads : Obligations.IndexLoads := fun s x nnn =>
  ⟨setI_completes (exec_ldINnn nnn s) (addrWord_toNat nnn), setI_completes (exec_ldFVx x s) (glyphAddress_toNat _)⟩

/-- Settles O44: the value written to I is the saturating sum. -/
theorem indexAddSaturates : Obligations.IndexAddSaturates := fun s x =>
  setI_completes (exec_addIVx x s) (sat16_toNat _)

end Sys2Proof.Proofs
end

section
/-! SUPPORT. The steps that complete, seen from the keys and the timers (spec/45_input_timers.md R133 to R140): the instruction such
a step ran, what it left in the latch and in the timers, and the tick that followed it. -/

namespace Sys2Proof.Statements
open Sys2Proof.Machine

variable {w : Writes} {i : Instr} {s t : State} {x : Reg}

theorem FrameOutside.key_eq (h : FrameOutside w s t) : t.key = s.key := by
  obtain ⟨-, -, -, -, -, -, -, -, hkey, -⟩ := h
  exact hkey

theorem FrameOutside.lastTick_eq (h : FrameOutside w s t) : t.lastTick = s.lastTick := by
  obtain ⟨-, -, -, -, -, -, -, -, -, -, hlast, -⟩ := h
  exact hlast

/-- What a step that runs and completes did: the decoded instruction, then the end of the step (R78). -/
theorem exec_of_step_next (hruns : Runs s) (h : step s = .next t) :
    ∃ u, exec (decodeWord (wordAtPc s)) s = .next u ∧ t = u.endStep := by
  obtain ⟨hpaused, -⟩ | ⟨-, -, hexec⟩ := step_next s t h
  · simp [hruns.1] at hpaused
  · exact hexec

theorem step_of_decodeWord (hruns : Runs s) (hdecode : decodeWord (wordAtPc s) = i) (h : exec i s = .next t) :
    step s = .next t.endStep :=
  step_of_exec_next hruns (by rwa [hdecode])

/-- The tick takes the ticks of the step's inputs as they were before the instruction, which does not draw them (R140; log 1). -/
theorem endStep_DT_toNat (h : exec i s = .next t) : t.endStep.DT.toNat = t.DT.toNat - s.stepInput.ticks := by
  rw [State.endStep_DT, countDown_toNat, (exec_frameOutside i s t h).stepInput_eq]

theorem endStep_ST_toNat (h : exec i s = .next t) : t.endStep.ST.toNat = t.ST.toNat - s.stepInput.ticks := by
  rw [State.endStep_ST, countDown_toNat, (exec_frameOutside i s t h).stepInput_eq]

theorem exec_ldDtVx_DT (h : exec (.ldDtVx x) s = .next t) : t.DT = s.reg x := by
  cases h
  rfl

theorem exec_ldStVx_ST (h : exec (.ldStVx x) s = .next t) : t.ST = s.reg x := by
  cases h
  rfl

/-- `FX15` is the only instruction whose frame lets DT be written (spec/10_state.md R31). -/
theorem exec_DT_eq (hi : ∀ x, i ≠ .ldDtVx x) (h : exec i s = .next t) : t.DT = s.DT := by
  have hwrites : (writesOf i s).delay = false := by
    cases i with
    | ldDtVx x => exact absurd rfl (hi x)
    | _ => rfl
  obtain ⟨-, -, -, -, -, hDT, -⟩ := exec_frameOutside i s t h
  exact hDT hwrites

/-- `FX18` is the only instruction whose frame lets ST be written (spec/10_state.md R31). -/
theorem exec_ST_eq (hi : ∀ x, i ≠ .ldStVx x) (h : exec i s = .next t) : t.ST = s.ST := by
  have hwrites : (writesOf i s).sound = false := by
    cases i with
    | ldStVx x => exact absurd rfl (hi x)
    | _ => rfl
  obtain ⟨-, -, -, -, -, -, hST, -⟩ := exec_frameOutside i s t h
  exact hST hwrites

theorem pendingKey_of_not_pending (h : s.keyPending = false) : s.pendingKey = none := by
  simp [State.pendingKey, h]

theorem pendingKey_eq_some_iff (s : State) (k : Nibble) :
    s.pendingKey = some k ↔ s.keyPending = true ∧ s.key = some k := by
  cases hp : s.keyPending <;> simp [State.pendingKey, hp]

/-- A test on the pending key, as the statements say it. -/
theorem pendingKey_any_iff (s : State) (test : Nibble → Bool) :
    s.pendingKey.any test = true ↔ ∃ k, s.keyPending = true ∧ s.key = some k ∧ test k = true := by
  simp only [Option.any_eq_true, pendingKey_eq_some_iff, and_assoc]

theorem keyByte_eq_iff (k : Nibble) (b : Byte) : keyByte k = b ↔ k.val = b.toNat := by
  rw [← BitVec.toNat_inj, keyByte_toNat]

/-- `skip_completes`, with the two values of pc said as two implications. -/
theorem skip_completes_cases {c : Bool} {p : Prop} (hc : c = true ↔ p)
    (hexec : exec i s = .next (s.setPc (if c then s.pc + 4 else s.pc + 2))) :
    ∃ t, exec i s = .next t ∧ FrameOutside {} s t ∧ (p → t.pc = s.pc + 4) ∧ (¬ p → t.pc = s.pc + 2) := by
  classical
  obtain ⟨t, ht, hpc, hframe⟩ := skip_completes hc hexec
  exact ⟨t, ht, hframe, fun hp => by rw [hpc, if_pos hp], fun hp => by rw [hpc, if_neg hp]⟩

end Sys2Proof.Statements
end

section
/-! SUPPORT. The timer synchroniser (spec/45_input_timers.md R141, R142; D13): the ticks of a step are the floor of 60 times the time
since the reference, and the reference moves by exactly those ticks, so what one step rounds off the next one still sees. -/

namespace Sys2Proof.Statements
open Sys2Proof.Machine

variable {s t : State} {now : Time}

/-- Where the clock has not been set back, nothing is cut off at 0 (log 28). -/
theorem elapsedTicks_eq_floor (h : s.lastTick ≤ now) : (s.elapsedTicks now : Int) = ((now - s.lastTick) * 60).floor := by
  have hnonneg : 0 ≤ (now - s.lastTick) * 60 := mul_nonneg (sub_nonneg.mpr h) (by norm_num)
  exact Int.toNat_of_nonneg (Int.floor_nonneg.mpr hnonneg)

/-- The reference never moves past the time of the step. -/
theorem lastTick_add_elapsedTicks_le (h : s.lastTick ≤ now) : s.lastTick + (s.elapsedTicks now : Rat) / 60 ≤ now := by
  have hfloor : ((s.elapsedTicks now : Int) : Rat) ≤ (now - s.lastTick) * 60 := by
    rw [elapsedTicks_eq_floor h]
    exact Int.floor_le ((now - s.lastTick) * 60)
  push_cast at hfloor
  linarith

/-- Moving the reference by `n` units takes exactly `n` from every later count. -/
theorem floor_sub_moved_reference (final reference : Time) (n : Nat) :
    ((final - (reference + (n : Rat) / 60)) * 60).floor = ((final - reference) * 60).floor - n := by
  have hmoved : (final - (reference + (n : Rat) / 60)) * 60 = (final - reference) * 60 - n := by ring
  rw [hmoved]
  exact Int.floor_sub_natCast ((final - reference) * 60) n

theorem step_lastTick (hpaused : s.paused = false) (h : step s = .next t) :
    t.lastTick = s.lastTick + (s.stepInput.ticks : Rat) / 60 := by
  obtain ⟨hp, -⟩ | ⟨-, -, u, hexec, rfl⟩ := step_next s t h
  · simp [hpaused] at hp
  · have hframe := exec_frameOutside _ s u hexec
    rw [State.endStep_lastTick, hframe.lastTick_eq, hframe.stepInput_eq]

/-- A step with the host's inputs moves the reference by the host's ticks (R142). -/
theorem stepWith_lastTick {ticks : Nat} {rand : Byte} (hpaused : s.paused = false)
    (h : stepWith { ticks := ticks, rand := rand } s = .next t) : t.lastTick = s.lastTick + (ticks : Rat) / 60 := by
  have hstep : step (s.withInput { ticks := ticks, rand := rand }) = .next t := by
    simpa [stepWith, hpaused] using h
  exact step_lastTick (s := s.withInput _) hpaused hstep

/-- The first step of a completed run, and the run of the rest. -/
theorem runAt_cons {rand : Byte} {later : List (Time × Byte)} {n : Nat} (h : runAt ((now, rand) :: later) s = some (t, n)) :
    ∃ u m, stepWith { ticks := s.elapsedTicks now, rand := rand } s = .next u ∧ runAt later u = some (t, m) ∧
      n = s.elapsedTicks now + m := by
  unfold runAt at h
  split at h
  next u hstep =>
    obtain ⟨⟨v, m⟩, hlater, hsum⟩ := Option.map_eq_some_iff.mp h
    obtain ⟨rfl, rfl⟩ := Prod.mk.inj hsum
    exact ⟨u, m, hstep, hlater, rfl⟩
  next => cases h

/-- The clock the statement asks for: the reference and the times of the steps, rising. -/
def Rising (reference : Time) (steps : List (Time × Byte)) : Prop := (reference :: steps.map Prod.fst).Pairwise (· ≤ ·)

theorem Rising.le_first {reference : Time} {rand : Byte} {later : List (Time × Byte)}
    (h : Rising reference ((now, rand) :: later)) : reference ≤ now :=
  List.rel_of_pairwise_cons h (List.mem_cons_self ..)

/-- After the first step the reference may stand anywhere up to that step's time. -/
theorem Rising.tail {reference moved : Time} {rand : Byte} {later : List (Time × Byte)}
    (h : Rising reference ((now, rand) :: later)) (hmoved : moved ≤ now) : Rising moved later := by
  obtain ⟨hnow, hlater⟩ := List.pairwise_cons.mp h.of_cons
  exact List.pairwise_cons.mpr ⟨fun time htime => hmoved.trans (hnow time htime), hlater⟩

/-- By induction on the earlier steps: the first step's ticks are what it takes off the count of the steps after it. -/
theorem runAt_ticks {earlier : List (Time × Byte)} {final : Time} {rand : Byte} {n : Nat} (hpaused : s.paused = false)
    (hrising : Rising s.lastTick (earlier ++ [(final, rand)])) (hrun : runAt (earlier ++ [(final, rand)]) s = some (t, n)) :
    (n : Int) = ((final - s.lastTick) * 60).floor ∧ t.lastTick = s.lastTick + (n : Rat) / 60 := by
  induction earlier generalizing s n with
  | nil =>
    obtain ⟨u, m, hstep, hrest, rfl⟩ := runAt_cons hrun
    obtain ⟨rfl, rfl⟩ : u = t ∧ 0 = m := by simpa [runAt] using hrest
    exact ⟨elapsedTicks_eq_floor hrising.le_first, stepWith_lastTick hpaused hstep⟩
  | cons first later ih =>
    obtain ⟨now, r⟩ := first
    obtain ⟨u, m, hstep, hrest, rfl⟩ := runAt_cons hrun
    have hreference := stepWith_lastTick hpaused hstep
    have hrising' : Rising u.lastTick (later ++ [(final, rand)]) := by
      refine hrising.tail ?_
      rw [hreference]
      exact lastTick_add_elapsedTicks_le hrising.le_first
    obtain ⟨hsum, hlast⟩ := ih ((stepWith_sameControl hstep).2.trans hpaused) hrising' hrest
    rw [hreference, floor_sub_moved_reference] at hsum
    refine ⟨by push_cast; omega, ?_⟩
    rw [hlast, hreference]
    push_cast
    ring

end Sys2Proof.Statements
end

section
/-! The obligations about the keys and the timers. -/

namespace Sys2Proof.Proofs
open Sys2Proof Sys2Proof.Machine Sys2Proof.Statements

/-- Settles O9: the instruction leaves each timer as it was or writes VX to it, and the end of the step ticks what it left. -/
theorem timersTickAtTheEndOfEveryStep : Obligations.TimersTickAtTheEndOfEveryStep := by
  refine ⟨fun s t hruns hstep => ?_, fun s hpaused => ⟨s, step_paused s hpaused, rfl, rfl⟩, fun s t inp f hfault => ?_⟩
  · obtain ⟨u, hexec, rfl⟩ := exec_of_step_next hruns hstep
    rw [endStep_DT_toNat hexec, endStep_ST_toNat hexec]
    refine ⟨fun x hi => ?_, fun hi => ?_, fun x hi => ?_, fun hi => ?_⟩
    · rw [exec_ldDtVx_DT (hi ▸ hexec)]
    · rw [exec_DT_eq hi hexec]
    · rw [exec_ldStVx_ST (hi ▸ hexec)]
    · rw [exec_ST_eq hi hexec]
  · obtain ⟨-, hsame⟩ := runTransaction_fault (congrArg Prod.snd hfault)
    obtain rfl : t = s := congrArg Prod.fst (hfault.symm.trans hsame)
    exact ⟨rfl, rfl⟩

/-- Settles O10: what one step rounds off stays before the reference for the next, so the sums telescope. -/
theorem ticksSumToElapsedTime : Obligations.TicksSumToElapsedTime := fun _ _ _ _ _ _ hpaused hrising hrun =>
  runAt_ticks hpaused hrising hrun

/-- Settles O11: the end of the step clears the flag, and no instruction's frame lets the key be written. -/
theorem keyVisibleForOneStep : Obligations.KeyVisibleForOneStep := by
  refine ⟨fun s k => rfl, fun s t hruns hstep => ?_⟩
  obtain ⟨u, hexec, rfl⟩ := exec_of_step_next hruns hstep
  exact ⟨u.endStep_keyPending, pendingKey_of_not_pending u.endStep_keyPending, (exec_frameOutside _ s u hexec).key_eq⟩

/-- Settles O51: both are skips whose test reads the pending key, so it fails where none is pending. -/
theorem keySkipsNeedAPendingKey : Obligations.KeySkipsNeedAPendingKey := by
  refine fun s x => ⟨skip_completes_cases ?_ (exec_skpVx x s), skip_completes_cases ?_ (exec_sknpVx x s)⟩
  · simp only [pendingKey_any_iff, beq_iff_eq, keyByte_eq_iff]
  · simp only [pendingKey_any_iff, bne_iff_ne, ne_eq, keyByte_eq_iff]

/-- Settles O52: the pending key decides between taking it and writing pc back. -/
theorem keyWaitTakesTheKeyOrRetries : Obligations.KeyWaitTakesTheKeyOrRetries := by
  refine fun s x => ⟨fun k hpending hkey => ?_, fun hnone => ?_⟩
  · have hexec := exec_ldVxK_key x s k ((pendingKey_eq_some_iff s k).mpr ⟨hpending, hkey⟩)
    exact ⟨_, hexec, by simp [keyByte_toNat], rfl, rfl, exec_frameOutside _ s _ hexec⟩
  · exact ⟨_, exec_ldVxK_wait x s (pendingKey_of_not_pending hnone), rfl, (FrameOutside.refl {} s).setPc _⟩

/-- Settles O54: each moves one byte between VX and a timer, and the end of the step ticks the timers after it. -/
theorem timerInstructionsReadAndWrite : Obligations.TimerInstructionsReadAndWrite := by
  refine ⟨fun s x => ⟨setReg_completes (exec_ldVxDt x s), ?_, ?_⟩, fun s x hruns => ⟨fun hi => ?_, fun hi => ?_, fun hi => ?_⟩⟩
  · exact ⟨_, exec_ldDtVx x s, rfl, rfl, exec_frameOutside _ s _ (exec_ldDtVx x s)⟩
  · exact ⟨_, exec_ldStVx x s, rfl, rfl, exec_frameOutside _ s _ (exec_ldStVx x s)⟩
  · obtain ⟨u, hexec, hreg, -⟩ := setReg_completes (exec_ldVxDt x s)
    refine ⟨_, step_of_decodeWord hruns hi hexec, (State.reg_congr u.endStep_V x).trans hreg, ?_⟩
    rw [endStep_DT_toNat hexec, exec_DT_eq (by simp) hexec]
  · exact ⟨_, step_of_decodeWord hruns hi (exec_ldDtVx x s), endStep_DT_toNat (exec_ldDtVx x s)⟩
  · exact ⟨_, step_of_decodeWord hruns hi (exec_ldStVx x s), endStep_ST_toNat (exec_ldStVx x s)⟩

end Sys2Proof.Proofs
end

section
/-! SUPPORT. The fault table read in both directions: each of its rows is raised, and none of them is the fetch's DecodeFault
(spec/60_exceptions.md R144 to R149). -/

namespace Sys2Proof.Statements
open Sys2Proof.Machine

variable {s : State} {f : Fault}

/-- Each row of the table is raised by the instruction it names (R146 to R148). -/
theorem exec_fault_of_faultCause {i : Instr} (h : faultCause i s = some f) : exec i s = .fault f := by
  unfold faultCause at h
  split_ifs at h with hret hcall hout
  · obtain ⟨rfl, hempty⟩ := hret
    exact Option.some.inj h ▸ exec_ret_empty s hempty
  · obtain ⟨⟨nnn, rfl⟩, hfull⟩ := hcall
    exact Option.some.inj h ▸ exec_callNnn_full nnn s hfull
  · exact Option.some.inj h ▸ exec_bounds_fault i s hout

/-- DecodeFault is the fetch's alone: no instruction raises it (R145). -/
theorem exec_ne_decodeFault (i : Instr) (s : State) (p : Word) : exec i s ≠ .fault (.decodeFault p) := by
  intro h
  obtain h | h | ⟨_, -, h⟩ := fault_of_faultCause (faultCause_of_exec_fault h) <;> cases h

end Sys2Proof.Statements
end

section
/-! The obligations about the faults. -/

namespace Sys2Proof.Proofs
open Sys2Proof Sys2Proof.Machine Sys2Proof.Statements

/-- Settles O8: an instruction never raises DecodeFault, so the fetch did, and it looks at the pause and pc only. -/
theorem decodeFaultExactlyPastTheEnd : Obligations.DecodeFaultExactlyPastTheEnd := by
  refine fun s p => ⟨fun h => ?_, ?_⟩
  · obtain ⟨hpaused, hpc, hfault⟩ | ⟨-, hexec⟩ := step_fault h
    · exact ⟨hpaused, Nat.le_of_succ_le_succ hpc, Fault.decodeFault.inj hfault⟩
    · exact absurd hexec (exec_ne_decodeFault _ s p)
  · rintro ⟨hpaused, hpc, rfl⟩
    exact step_fetch_fault s hpaused (Nat.succ_le_succ hpc)

/-- Settles O20: a fault raised is the table's, because an instruction otherwise completes, and each row of the table is raised. -/
theorem faultsExactlyAsTabulated : Obligations.FaultsExactlyAsTabulated := fun _ _ _ =>
  ⟨faultCause_of_exec_fault, exec_fault_of_faultCause⟩

/-- Settles O22: the pop finds no address on the empty stack. -/
theorem returnOnEmptyStackFaults : Obligations.ReturnOnEmptyStackFaults := exec_ret_empty

end Sys2Proof.Proofs
end

section
/-! SUPPORT. What `reset(program)` can answer, and what memory reads as after it (spec/70_reset_and_hazards.md R161). -/

namespace Sys2Proof.Machine

variable {s t : State} {program : List Byte} {now : Time}

theorem State.resetProgram_completes (hfits : program.length ≤ 3584) : ∃ t, s.resetProgram program now = .next t := by
  have hlen : ¬ memSize - 512 < program.length := not_lt.mpr hfits
  unfold State.resetProgram
  exact ⟨_, if_neg hlen⟩

theorem State.resetProgram_refused (hlong : 3584 < program.length) :
    s.resetProgram program now = .refused (.programTooLong program.length) := by
  have hlen : memSize - 512 < program.length := hlong
  unfold State.resetProgram
  exact if_pos hlen

/-- Reset stores the program over the reset contents alone: nothing of the memory before it is left (R42). -/
theorem State.resetProgram_readByte (h : s.resetProgram program now = .next t) (a : Nat) :
    t.readByte a = Memory.read s.config.font (Memory.writeBytes s.config.font [] 512 program) a := by
  obtain ⟨-, rfl⟩ := State.resetProgram_next h
  rfl

theorem State.resetProgram_readByte_program (h : s.resetProgram program now = .next t) (j : Nat)
    (hj : j < program.length) : t.readByte (512 + j) = program[j] := by
  have hin : 512 ≤ 512 + j ∧ 512 + j - 512 < program.length := by omega
  rw [State.resetProgram_readByte h, Memory.read_writeBytes, dif_pos hin]
  simp only [Nat.add_sub_cancel_left]

theorem State.resetProgram_readByte_outside (h : s.resetProgram program now = .next t) {a : Nat}
    (ha : a < 512 ∨ 512 + program.length ≤ a) : t.readByte a = Memory.unlisted s.config.font a := by
  rw [State.resetProgram_readByte h, Memory.read_writeBytes, dif_neg (by omega), Memory.read]

end Sys2Proof.Machine
end

section
/-! The obligation about `reset(program)`. -/

namespace Sys2Proof.Proofs
open Sys2Proof Sys2Proof.Machine

/-- Settles O56: an image that fits is stored over the reset contents, and the font lies below 512, outside every image; a longer
one is refused, and a refusal is settled with the state before. -/
theorem resetLoadsTheProgram : Obligations.ResetLoadsTheProgram := by
  refine fun s program now => ⟨fun hfits => ?_, fun hlong => ?_⟩
  · obtain ⟨t, hreset⟩ := State.resetProgram_completes (s := s) (now := now) hfits
    have hglyph (d k : Nat) (hd : d < 16) (hk : k < 5) : t.readByte (5 * d + k) = s.config.font[d][k] :=
      (State.resetProgram_readByte_outside hreset (by omega)).trans (Memory.unlisted_glyph s.config.font d k hd hk)
    have hprogram := State.resetProgram_readByte_program hreset
    have hzero (a : Nat) (ha : 80 ≤ a) (hout : a < 512 ∨ 512 + program.length ≤ a) : t.readByte a = 0 :=
      (State.resetProgram_readByte_outside hreset hout).trans (Memory.unlisted_of_le s.config.font a ha)
    refine ⟨t, hreset, ?_⟩
    obtain ⟨-, rfl⟩ := State.resetProgram_next hreset
    refine ⟨fun x => ?_, rfl, rfl, rfl, rfl, rfl, rfl, rfl, rfl, rfl, rfl, rfl, hglyph, hprogram, hzero⟩
    simp [State.reg]
  · exact congrArg (settle s) (State.resetProgram_refused hlong)

end Sys2Proof.Proofs
end
